-- ==== Sys2Proof/Word.lean ====
section
/-! DEFINITION. The two word types of the core: bytes and 16-bit addresses (00_scope R7, R9, R11). -/

namespace Sys2Proof

/-- A register or a memory byte: an unsigned 8-bit value (R7, R11). -/
abbrev Byte := BitVec 8

/-- An address, SP, PC or a register pair: an unsigned 16-bit value (R7). Arithmetic wraps `mod 2^16` (D9). -/
abbrev Addr := BitVec 16

end Sys2Proof
end

