-- ==== Sys2Proof/Config.lean ====
section
/-! DEFINITION. The launch parameters of 00_scope R8, as plain data: fixed when a session is launched and changed by
no step. A machine state carries them (State.launch), so that a statement over all states holds for every launch
(notes/assumptions/6.md). -/

namespace Sys2Proof

/-- BANK_BASE_ADJUST, the constant subtracted from the bank index (R8, R72): 1 is the source's formula, 0 the
alternative (D17, conflict C10). -/
inductive BankBaseAdjust where
  | one
  | zero
  deriving DecidableEq, Repr

/-- ROM_WRITE_POLICY, the effect of a CPU write into 0x0000-0x7FFF with a cartridge present (R8, R73, D16). -/
inductive RomWritePolicy where
  | fault
  | ignore
  deriving DecidableEq, Repr

/-- CYCLE_TABLE, one cost per row of 70_reset_and_hazards R708 (a conditional row has its taken and its not-taken
cost). The default is `Machine.cycleTableR708` (notes/assumptions/7.md). -/
structure CycleTable where
  ldRN : Nat
  ldHLN : Nat
  ldRR : Nat
  ldRHL : Nat
  ldHLR : Nat
  ldRpNN : Nat
  aluR : Nat
  aluHL : Nat
  aluN : Nat
  incDecR : Nat
  incDecHL : Nat
  incDecRp : Nat
  ldHLSPe : Nat
  push : Nat
  pop : Nat
  call : Nat
  rst : Nat
  ret : Nat
  jp : Nat
  jrCcTaken : Nat
  jrCcNotTaken : Nat
  retCcTaken : Nat
  retCcNotTaken : Nat
  eiDi : Nat
  nop : Nat
  jrE : Nat
  jpCcTaken : Nat
  jpCcNotTaken : Nat
  callCcTaken : Nat
  callCcNotTaken : Nat
  deriving DecidableEq, Repr

/-- The launch parameters (R8) that stay fixed during a run. REG0, IME0 and RAM0 are arguments of
`State.powerOn`; HOST_STEPS is an argument of `runSession`. -/
structure Launch where
  /-- CART_PRESENT (R47). -/
  cartPresent : Bool
  /-- ROM, an immutable byte sequence of any length (R46, D33); ROM_LEN is its length. -/
  rom : List Byte
  bankBaseAdjust : BankBaseAdjust
  romWritePolicy : RomWritePolicy
  admitNop : Bool
  admitJr : Bool
  admitJpCc : Bool
  admitCallCc : Bool
  cycleTable : CycleTable
  deriving DecidableEq, Repr

/-- REG0, the power-on values of A, B, C, D, E, H, L and F (R8, R51); OPEN, any values (D12). -/
structure Reg0 where
  a : Byte
  b : Byte
  c : Byte
  d : Byte
  e : Byte
  h : Byte
  l : Byte
  f : Byte
  deriving DecidableEq, Repr

end Sys2Proof
end

