-- ==== Sys2Proof/Machine/Bits.lean ====
section
/-! DEFINITION. Bit-field, byte-order and sign-extension helpers (00_scope R9-R12). -/

namespace Sys2Proof.Machine

/-- `hi:lo`, the u16 `(hi << 8) | lo` (R12). -/
def word (hi lo : Byte) : Addr := hi ++ lo

/-- `v[15:8]`. -/
def hiByte (v : Addr) : Byte := v.extractLsb' 8 8

/-- `v[7:0]`. -/
def loByte (v : Addr) : Byte := v.extractLsb' 0 8

/-- `sext_16(v)`: v if v < 0x80, else v + 0xFF00 (R11). -/
def sext16 (v : Byte) : Addr := v.signExtend 16

/-- `zext_16(v)` (R11). -/
def zext16 (v : Byte) : Addr := v.zeroExtend 16

/-- `v & 0xF` as an integer. -/
def lowNibble (v : Byte) : Nat := (v &&& 0x0F#8).toNat

end Sys2Proof.Machine
end

