-- ==== Sys2Proof/Syntax.lean ====
section
/-! DEFINITION. The instruction syntax: one constructor per row of spec/opcode_table.json (96 rows), with the operands
that 30_encoding R123-R130 give it. Register fields are constructors, not bit patterns, so the machine never sees a raw
encoding. -/

namespace Sys2Proof

/-- The seven general registers a 3-bit field selects (10_state R31, R33). The eighth encoding, 0b110, is the (HL)
operand and has rows of its own. -/
inductive Reg8 where
  | b
  | c
  | d
  | e
  | h
  | l
  | a
  deriving DecidableEq, Repr

/-- RP, the pair operands of LD rp,nn, INC rp and DEC rp (10_state R39). -/
inductive RegPair where
  | bc
  | de
  | hl
  | sp
  deriving DecidableEq, Repr

/-- RP2, the pair operands of PUSH and POP (10_state R40). -/
inductive StackPair where
  | bc
  | de
  | hl
  | af
  deriving DecidableEq, Repr

/-- The condition codes (30_encoding R128). -/
inductive Cond where
  | nz
  | z
  | nc
  | c
  deriving DecidableEq, Repr

/-- One constructor per row of spec/opcode_table.json. `n` is n8, `e` the raw byte of the signed displacement e8, `nn`
is n16, and `t` the RST target byte y * 8 (R123, R124, R125, R130). The rows from `unimpl02` on are the 45 opcode bytes
of R135, named by their byte; the comment names the console CPU's instruction, which is not modelled (U19). -/
inductive Instr where
  | ldRN (r : Reg8) (n : Byte)
  | ldHLN (n : Byte)
  | ldRR (dst src : Reg8)
  | ldRHL (dst : Reg8)
  | ldHLR (src : Reg8)
  | ldRpNN (p : RegPair) (nn : Addr)
  | addR (r : Reg8)
  | addHL
  | addN (n : Byte)
  | adcR (r : Reg8)
  | adcHL
  | adcN (n : Byte)
  | subR (r : Reg8)
  | subHL
  | subN (n : Byte)
  | sbcR (r : Reg8)
  | sbcHL
  | sbcN (n : Byte)
  | andR (r : Reg8)
  | andHL
  | andN (n : Byte)
  | xorR (r : Reg8)
  | xorHL
  | xorN (n : Byte)
  | orR (r : Reg8)
  | orHL
  | orN (n : Byte)
  | cpR (r : Reg8)
  | cpHL
  | cpN (n : Byte)
  | incR (r : Reg8)
  | incHL
  | decR (r : Reg8)
  | decHL
  | incRp (p : RegPair)
  | decRp (p : RegPair)
  | ldHLSPe (e : Byte)
  | push (q : StackPair)
  | pop (q : StackPair)
  | call (nn : Addr)
  | rst (t : Byte)
  | ret
  | jp (nn : Addr)
  | jrCc (cc : Cond) (e : Byte)
  | retCc (cc : Cond)
  | ei
  | di
  | nop
  | jrE (e : Byte)
  | jpCc (cc : Cond) (nn : Addr)
  | callCc (cc : Cond) (nn : Addr)
  | unimpl02 -- console: LD (BC),A
  | unimpl07 -- console: RLCA
  | unimpl08 -- console: LD (nn),SP
  | unimpl09 -- console: ADD HL,BC
  | unimpl0A -- console: LD A,(BC)
  | unimpl0F -- console: RRCA
  | unimpl10 -- console: STOP
  | unimpl12 -- console: LD (DE),A
  | unimpl17 -- console: RLA
  | unimpl19 -- console: ADD HL,DE
  | unimpl1A -- console: LD A,(DE)
  | unimpl1F -- console: RRA
  | unimpl22 -- console: LD (HL+),A
  | unimpl27 -- console: DAA
  | unimpl29 -- console: ADD HL,HL
  | unimpl2A -- console: LD A,(HL+)
  | unimpl2F -- console: CPL
  | unimpl32 -- console: LD (HL-),A
  | unimpl37 -- console: SCF
  | unimpl39 -- console: ADD HL,SP
  | unimpl3A -- console: LD A,(HL-)
  | unimpl3F -- console: CCF
  | unimpl76 -- console: LD (HL),(HL) collision, HALT
  | unimplCB -- console: CB prefix
  | unimplD3 -- console: undefined
  | unimplD9 -- console: RETI
  | unimplDB -- console: undefined
  | unimplDD -- console: undefined
  | unimplE0 -- console: LDH (n),A
  | unimplE2 -- console: LD (C),A
  | unimplE3 -- console: undefined
  | unimplE4 -- console: undefined
  | unimplE8 -- console: ADD SP,e
  | unimplE9 -- console: JP (HL)
  | unimplEA -- console: LD (nn),A
  | unimplEB -- console: undefined
  | unimplEC -- console: undefined
  | unimplED -- console: undefined
  | unimplF0 -- console: LDH A,(n)
  | unimplF2 -- console: LD A,(C)
  | unimplF4 -- console: undefined
  | unimplF9 -- console: LD SP,HL
  | unimplFA -- console: LD A,(nn)
  | unimplFC -- console: undefined
  | unimplFD -- console: undefined
  deriving DecidableEq, Repr

end Sys2Proof
end

