-- ==== Sys2Proof/WellFormed.lean ====
section
/-! DEFINITION. Well-formedness of an instruction as syntax. Registers, pairs and conditions are constructors and every
immediate is a full byte or word, so the one check left is that an RST target is one of the eight of 30_encoding R130. -/

namespace Sys2Proof

/-- The RST target is y * 8 for a 3-bit y: 0x00, 0x08, ..., 0x38 (R130): no bit outside bits 5..3. -/
def rstTargetOk (t : Byte) : Bool := t &&& 0xC7#8 == 0#8

/-- The words of a well-formed instruction exist, and decoding never gives any other. -/
def Instr.wellFormed : Instr → Bool
  | .rst t => rstTargetOk t
  | .ldRN _ _ | .ldRR _ _ | .ldRpNN _ _ | .jrCc _ _ | .jpCc _ _ | .callCc _ _ | .ldHLN _ | .ldRHL _ | .ldHLR _
  | .addR _ | .addN _ | .adcR _ | .adcN _ | .subR _ | .subN _ | .sbcR _ | .sbcN _ | .andR _ | .andN _ | .xorR _
  | .xorN _ | .orR _ | .orN _ | .cpR _ | .cpN _ | .incR _ | .decR _ | .incRp _ | .decRp _ | .ldHLSPe _ | .push _
  | .pop _ | .call _ | .jp _ | .retCc _ | .jrE _ | .addHL | .adcHL | .subHL | .sbcHL | .andHL | .xorHL | .orHL
  | .cpHL | .incHL | .decHL | .ret | .ei | .di | .nop | .unimpl02 | .unimpl07 | .unimpl08 | .unimpl09
  | .unimpl0A | .unimpl0F | .unimpl10 | .unimpl12 | .unimpl17 | .unimpl19 | .unimpl1A | .unimpl1F | .unimpl22
  | .unimpl27 | .unimpl29 | .unimpl2A | .unimpl2F | .unimpl32 | .unimpl37 | .unimpl39 | .unimpl3A | .unimpl3F
  | .unimpl76 | .unimplCB | .unimplD3 | .unimplD9 | .unimplDB | .unimplDD | .unimplE0 | .unimplE2 | .unimplE3
  | .unimplE4 | .unimplE8 | .unimplE9 | .unimplEA | .unimplEB | .unimplEC | .unimplED | .unimplF0 | .unimplF2
  | .unimplF4 | .unimplF9 | .unimplFA | .unimplFC | .unimplFD => true

end Sys2Proof
end

