-- ==== Sys2Proof/Decode.lean ====
section
/-! DEFINITION. Decoding and encoding (30_encoding). The decoder is total on any opcode and operand bytes: the rows of
the opcode table partition all 256 opcode bytes (R138). A byte sequence is rejected, by name, only where it ends before
the instruction does. An optional row (R134) decodes to its instruction whatever the launch admits; where the launch
does not admit it, the fetch reads the opcode alone and its meaning raises UnimplementedOpcode
(notes/assumptions/9.md). -/

namespace Sys2Proof

open Machine (word hiByte loByte)

/-! ## The fields of the opcode byte (R121) -/

def fieldX (op : Byte) : BitVec 2 := op.extractLsb' 6 2
def fieldY (op : Byte) : BitVec 3 := op.extractLsb' 3 3
def fieldZ (op : Byte) : BitVec 3 := op.extractLsb' 0 3
def fieldP (op : Byte) : BitVec 2 := op.extractLsb' 4 2
def fieldQ (op : Byte) : BitVec 1 := op.extractLsb' 3 1
def fieldCC (op : Byte) : BitVec 2 := op.extractLsb' 3 2

/-! ## The operand tables -/

/-- 10_state R33: the register a 3-bit field selects; `none` for 0b110, the (HL) operand. -/
def reg8OfCode (k : BitVec 3) : Option Reg8 :=
  match k with
  | 0b000#3 => some .b
  | 0b001#3 => some .c
  | 0b010#3 => some .d
  | 0b011#3 => some .e
  | 0b100#3 => some .h
  | 0b101#3 => some .l
  | 0b110#3 => none
  | _ => some .a -- 0b111

/-- 10_state R33, read the other way. -/
def Reg8.code : Reg8 → BitVec 3
  | .b => 0b000#3
  | .c => 0b001#3
  | .d => 0b010#3
  | .e => 0b011#3
  | .h => 0b100#3
  | .l => 0b101#3
  | .a => 0b111#3

/-- 10_state R39: RP. -/
def regPairOfCode (k : BitVec 2) : RegPair :=
  match k with
  | 0b00#2 => .bc
  | 0b01#2 => .de
  | 0b10#2 => .hl
  | _ => .sp -- 0b11

/-- 10_state R39, read the other way. -/
def RegPair.code : RegPair → BitVec 2
  | .bc => 0b00#2
  | .de => 0b01#2
  | .hl => 0b10#2
  | .sp => 0b11#2

/-- 10_state R40: RP2. -/
def stackPairOfCode (k : BitVec 2) : StackPair :=
  match k with
  | 0b00#2 => .bc
  | 0b01#2 => .de
  | 0b10#2 => .hl
  | _ => .af -- 0b11

/-- 10_state R40, read the other way. -/
def StackPair.code : StackPair → BitVec 2
  | .bc => 0b00#2
  | .de => 0b01#2
  | .hl => 0b10#2
  | .af => 0b11#2

/-- 30_encoding R128. -/
def condOfCode (k : BitVec 2) : Cond :=
  match k with
  | 0b00#2 => .nz
  | 0b01#2 => .z
  | 0b10#2 => .nc
  | _ => .c -- 0b11

/-- 30_encoding R128, read the other way. -/
def Cond.code : Cond → BitVec 2
  | .nz => 0b00#2
  | .z => 0b01#2
  | .nc => 0b10#2
  | .c => 0b11#2

/-! ## The ALU operation field y (R129) -/

def aluRegInstr (y : BitVec 3) (r : Reg8) : Instr :=
  match y with
  | 0b000#3 => .addR r
  | 0b001#3 => .adcR r
  | 0b010#3 => .subR r
  | 0b011#3 => .sbcR r
  | 0b100#3 => .andR r
  | 0b101#3 => .xorR r
  | 0b110#3 => .orR r
  | _ => .cpR r -- 0b111

def aluHLInstr (y : BitVec 3) : Instr :=
  match y with
  | 0b000#3 => .addHL
  | 0b001#3 => .adcHL
  | 0b010#3 => .subHL
  | 0b011#3 => .sbcHL
  | 0b100#3 => .andHL
  | 0b101#3 => .xorHL
  | 0b110#3 => .orHL
  | _ => .cpHL -- 0b111

def aluImmInstr (y : BitVec 3) (n : Byte) : Instr :=
  match y with
  | 0b000#3 => .addN n
  | 0b001#3 => .adcN n
  | 0b010#3 => .subN n
  | 0b011#3 => .sbcN n
  | 0b100#3 => .andN n
  | 0b101#3 => .xorN n
  | 0b110#3 => .orN n
  | _ => .cpN n -- 0b111

/-! ## Decoding (R131, R132) -/

/-- x = 00: the map's rows 0x to 3x. `lo` and `hi` are the bytes at pc+1 and pc+2. -/
def decodeX0 (op lo hi : Byte) : Instr :=
  let y := fieldY op
  let p := fieldP op
  match fieldZ op with
  | 0b000#3 =>
    match y with
    | 0b000#3 => .nop
    | 0b001#3 => .unimpl08
    | 0b010#3 => .unimpl10
    | 0b011#3 => .jrE lo
    | _ => .jrCc (condOfCode (fieldCC op)) lo -- 001cc000
  | 0b001#3 =>
    match fieldQ op, p with
    | 0b0#1, _ => .ldRpNN (regPairOfCode p) (word hi lo)
    | _, 0b00#2 => .unimpl09
    | _, 0b01#2 => .unimpl19
    | _, 0b10#2 => .unimpl29
    | _, _ => .unimpl39
  | 0b010#3 =>
    match y with
    | 0b000#3 => .unimpl02
    | 0b001#3 => .unimpl0A
    | 0b010#3 => .unimpl12
    | 0b011#3 => .unimpl1A
    | 0b100#3 => .unimpl22
    | 0b101#3 => .unimpl2A
    | 0b110#3 => .unimpl32
    | _ => .unimpl3A
  | 0b011#3 =>
    match fieldQ op with
    | 0b0#1 => .incRp (regPairOfCode p)
    | _ => .decRp (regPairOfCode p)
  | 0b100#3 =>
    match reg8OfCode y with
    | some r => .incR r
    | none => .incHL
  | 0b101#3 =>
    match reg8OfCode y with
    | some r => .decR r
    | none => .decHL
  | 0b110#3 =>
    match reg8OfCode y with
    | some r => .ldRN r lo
    | none => .ldHLN lo
  | _ => -- 0b111
    match y with
    | 0b000#3 => .unimpl07
    | 0b001#3 => .unimpl0F
    | 0b010#3 => .unimpl17
    | 0b011#3 => .unimpl1F
    | 0b100#3 => .unimpl27
    | 0b101#3 => .unimpl2F
    | 0b110#3 => .unimpl37
    | _ => .unimpl3F

/-- x = 01: the move group, with 0x76 taken out first (R131 step 1, R503). -/
def decodeX1 (op : Byte) : Instr :=
  match reg8OfCode (fieldY op), reg8OfCode (fieldZ op) with
  | none, none => .unimpl76
  | none, some src => .ldHLR src
  | some dst, none => .ldRHL dst
  | some dst, some src => .ldRR dst src

/-- x = 10: the arithmetic/logic group (R129). -/
def decodeX2 (op : Byte) : Instr :=
  match reg8OfCode (fieldZ op) with
  | some r => aluRegInstr (fieldY op) r
  | none => aluHLInstr (fieldY op)

/-- x = 11: the map's rows Cx to Fx. -/
def decodeX3 (op lo hi : Byte) : Instr :=
  let y := fieldY op
  let q := stackPairOfCode (fieldP op)
  let cc := condOfCode (fieldCC op)
  let nn := word hi lo
  match fieldZ op with
  | 0b000#3 =>
    match y with
    | 0b100#3 => .unimplE0
    | 0b101#3 => .unimplE8
    | 0b110#3 => .unimplF0
    | 0b111#3 => .ldHLSPe lo
    | _ => .retCc cc -- 110cc000
  | 0b001#3 =>
    match y with
    | 0b001#3 => .ret
    | 0b011#3 => .unimplD9
    | 0b101#3 => .unimplE9
    | 0b111#3 => .unimplF9
    | _ => .pop q -- 11pp0001
  | 0b010#3 =>
    match y with
    | 0b100#3 => .unimplE2
    | 0b101#3 => .unimplEA
    | 0b110#3 => .unimplF2
    | 0b111#3 => .unimplFA
    | _ => .jpCc cc nn -- 110cc010
  | 0b011#3 =>
    match y with
    | 0b000#3 => .jp nn
    | 0b001#3 => .unimplCB
    | 0b010#3 => .unimplD3
    | 0b011#3 => .unimplDB
    | 0b100#3 => .unimplE3
    | 0b101#3 => .unimplEB
    | 0b110#3 => .di
    | _ => .ei
  | 0b100#3 =>
    match y with
    | 0b100#3 => .unimplE4
    | 0b101#3 => .unimplEC
    | 0b110#3 => .unimplF4
    | 0b111#3 => .unimplFC
    | _ => .callCc cc nn -- 110cc100
  | 0b101#3 =>
    match y with
    | 0b001#3 => .call nn
    | 0b011#3 => .unimplDD
    | 0b101#3 => .unimplED
    | 0b111#3 => .unimplFD
    | _ => .push q -- 11pp0101
  | 0b110#3 => aluImmInstr y lo
  | _ => .rst (0b00#2 ++ y ++ 0b000#3) -- 0b111, target y * 8 (R130)

/-- The instruction of opcode byte `op` with the bytes after it; a byte the format does not name is not used. -/
def decodeOp (op lo hi : Byte) : Instr :=
  match fieldX op with
  | 0b00#2 => decodeX0 op lo hi
  | 0b01#2 => decodeX1 op
  | 0b10#2 => decodeX2 op
  | _ => decodeX3 op lo hi -- 0b11

/-- The length of an instruction by its format I1, I2 or I3 (R122); a faulting opcode fetches no operand (R136). -/
def Instr.length : Instr → Nat
  | .ldRR _ _ | .ldRHL _ | .ldHLR _ | .addR _ | .adcR _ | .subR _ | .sbcR _ | .andR _ | .xorR _ | .orR _
  | .cpR _ | .addHL | .adcHL | .subHL | .sbcHL | .andHL | .xorHL | .orHL | .cpHL | .incR _ | .incHL | .decR _
  | .decHL | .incRp _ | .decRp _ | .push _ | .pop _ | .ret | .retCc _ | .rst _ | .ei | .di | .nop | .unimpl02
  | .unimpl07 | .unimpl08 | .unimpl09 | .unimpl0A | .unimpl0F | .unimpl10 | .unimpl12 | .unimpl17 | .unimpl19
  | .unimpl1A | .unimpl1F | .unimpl22 | .unimpl27 | .unimpl29 | .unimpl2A | .unimpl2F | .unimpl32 | .unimpl37
  | .unimpl39 | .unimpl3A | .unimpl3F | .unimpl76 | .unimplCB | .unimplD3 | .unimplD9 | .unimplDB | .unimplDD
  | .unimplE0 | .unimplE2 | .unimplE3 | .unimplE4 | .unimplE8 | .unimplE9 | .unimplEA | .unimplEB | .unimplEC
  | .unimplED | .unimplF0 | .unimplF2 | .unimplF4 | .unimplF9 | .unimplFA | .unimplFC | .unimplFD => 1
  | .ldRN _ _ | .ldHLN _ | .addN _ | .adcN _ | .subN _ | .sbcN _ | .andN _ | .xorN _ | .orN _ | .cpN _
  | .jrCc _ _ | .ldHLSPe _ | .jrE _ => 2
  | .ldRpNN _ _ | .jp _ | .call _ | .jpCc _ _ | .callCc _ _ => 3

/-- The length the opcode byte alone determines (R120). -/
def instrLength (op : Byte) : Nat := (decodeOp op 0#8 0#8).length

/-- Whether `Decode` (R131) gives this instruction under the launch, and not FAULT: a row of R133 always, an optional
row where its flag is true (R134), a faulting row never (R135). -/
def Instr.admitted (launch : Launch) : Instr → Bool
  | .ldRR _ _ | .ldRHL _ | .ldHLR _ | .addR _ | .adcR _ | .subR _ | .sbcR _ | .andR _ | .xorR _ | .orR _
  | .cpR _ | .addHL | .adcHL | .subHL | .sbcHL | .andHL | .xorHL | .orHL | .cpHL | .incR _ | .incHL | .decR _
  | .decHL | .incRp _ | .decRp _ | .push _ | .pop _ | .ret | .retCc _ | .rst _ | .ei | .di | .ldRN _ _
  | .ldHLN _ | .addN _ | .adcN _ | .subN _ | .sbcN _ | .andN _ | .xorN _ | .orN _ | .cpN _ | .jrCc _ _
  | .ldHLSPe _ | .ldRpNN _ _ | .jp _ | .call _ => true
  | .nop => launch.admitNop
  | .jrE _ => launch.admitJr
  | .jpCc _ _ => launch.admitJpCc
  | .callCc _ _ => launch.admitCallCc
  | .unimpl02 | .unimpl07 | .unimpl08 | .unimpl09 | .unimpl0A | .unimpl0F | .unimpl10 | .unimpl12 | .unimpl17
  | .unimpl19 | .unimpl1A | .unimpl1F | .unimpl22 | .unimpl27 | .unimpl29 | .unimpl2A | .unimpl2F | .unimpl32
  | .unimpl37 | .unimpl39 | .unimpl3A | .unimpl3F | .unimpl76 | .unimplCB | .unimplD3 | .unimplD9 | .unimplDB
  | .unimplDD | .unimplE0 | .unimplE2 | .unimplE3 | .unimplE4 | .unimplE8 | .unimplE9 | .unimplEA | .unimplEB
  | .unimplEC | .unimplED | .unimplF0 | .unimplF2 | .unimplF4 | .unimplF9 | .unimplFA | .unimplFC | .unimplFD => false

/-- Whether the opcode byte alone decodes to an admitted instruction (R131). -/
def opcodeAdmitted (launch : Launch) (op : Byte) : Bool := (decodeOp op 0#8 0#8).admitted launch

/-- Why a byte sequence holds no instruction. -/
inductive DecodeError where
  /-- There is no opcode byte. -/
  | noOpcode
  /-- The sequence ends before the operand bytes that this opcode's format names. -/
  | missingOperand (op : Byte)
  deriving DecidableEq, Repr

/-- Decode one instruction from the front of a byte sequence, in address order: the instruction and the bytes after it. -/
def decode : List Byte → Except DecodeError (Instr × List Byte)
  | [] => .error .noOpcode
  | op :: rest =>
    let operands := instrLength op - 1
    if rest.length < operands then .error (.missingOperand op)
    else .ok (decodeOp op (rest.getD 0 0#8) (rest.getD 1 0#8), rest.drop operands)

/-- The instruction the decoder reads from the bits `w`, bit 0 the least significant bit of the opcode byte and each
later byte counting on from it, the bits from `nbits` on being 0. -/
def decodeTableWord (nbits w : Nat) : Option Instr :=
  let v := w % 2 ^ nbits
  match decode [BitVec.ofNat 8 v, BitVec.ofNat 8 (v / 256), BitVec.ofNat 8 (v / 65536)] with
  | .ok (i, _) => some i
  | .error _ => none

/-! ## Encoding (R133, R134, R135) -/

/-- The bytes of a well-formed instruction in address order, from the encoding column of R133 and R134; a 16-bit
immediate is little-endian (R125). -/
def encode : Instr → List Byte
  | .ldRN r n => [0b00#2 ++ r.code ++ 0b110#3, n]
  | .ldHLN n => [0b00110110#8, n]
  | .ldRR dst src => [0b01#2 ++ dst.code ++ src.code]
  | .ldRHL dst => [0b01#2 ++ dst.code ++ 0b110#3]
  | .ldHLR src => [0b01110#5 ++ src.code]
  | .ldRpNN p nn => [0b00#2 ++ p.code ++ 0b0001#4, loByte nn, hiByte nn]
  | .addR r => [0b10000#5 ++ r.code]
  | .addHL => [0b10000110#8]
  | .addN n => [0b11000110#8, n]
  | .adcR r => [0b10001#5 ++ r.code]
  | .adcHL => [0b10001110#8]
  | .adcN n => [0b11001110#8, n]
  | .subR r => [0b10010#5 ++ r.code]
  | .subHL => [0b10010110#8]
  | .subN n => [0b11010110#8, n]
  | .sbcR r => [0b10011#5 ++ r.code]
  | .sbcHL => [0b10011110#8]
  | .sbcN n => [0b11011110#8, n]
  | .andR r => [0b10100#5 ++ r.code]
  | .andHL => [0b10100110#8]
  | .andN n => [0b11100110#8, n]
  | .xorR r => [0b10101#5 ++ r.code]
  | .xorHL => [0b10101110#8]
  | .xorN n => [0b11101110#8, n]
  | .orR r => [0b10110#5 ++ r.code]
  | .orHL => [0b10110110#8]
  | .orN n => [0b11110110#8, n]
  | .cpR r => [0b10111#5 ++ r.code]
  | .cpHL => [0b10111110#8]
  | .cpN n => [0b11111110#8, n]
  | .incR r => [0b00#2 ++ r.code ++ 0b100#3]
  | .incHL => [0b00110100#8]
  | .decR r => [0b00#2 ++ r.code ++ 0b101#3]
  | .decHL => [0b00110101#8]
  | .incRp p => [0b00#2 ++ p.code ++ 0b0011#4]
  | .decRp p => [0b00#2 ++ p.code ++ 0b1011#4]
  | .ldHLSPe e => [0b11111000#8, e]
  | .push q => [0b11#2 ++ q.code ++ 0b0101#4]
  | .pop q => [0b11#2 ++ q.code ++ 0b0001#4]
  | .call nn => [0b11001101#8, loByte nn, hiByte nn]
  | .rst t => [0b11000111#8 ||| t]
  | .ret => [0b11001001#8]
  | .jp nn => [0b11000011#8, loByte nn, hiByte nn]
  | .jrCc cc e => [0b001#3 ++ cc.code ++ 0b000#3, e]
  | .retCc cc => [0b110#3 ++ cc.code ++ 0b000#3]
  | .ei => [0b11111011#8]
  | .di => [0b11110011#8]
  | .nop => [0b00000000#8]
  | .jrE e => [0b00011000#8, e]
  | .jpCc cc nn => [0b110#3 ++ cc.code ++ 0b010#3, loByte nn, hiByte nn]
  | .callCc cc nn => [0b110#3 ++ cc.code ++ 0b100#3, loByte nn, hiByte nn]
  | .unimpl02 => [0x02#8]
  | .unimpl07 => [0x07#8]
  | .unimpl08 => [0x08#8]
  | .unimpl09 => [0x09#8]
  | .unimpl0A => [0x0A#8]
  | .unimpl0F => [0x0F#8]
  | .unimpl10 => [0x10#8]
  | .unimpl12 => [0x12#8]
  | .unimpl17 => [0x17#8]
  | .unimpl19 => [0x19#8]
  | .unimpl1A => [0x1A#8]
  | .unimpl1F => [0x1F#8]
  | .unimpl22 => [0x22#8]
  | .unimpl27 => [0x27#8]
  | .unimpl29 => [0x29#8]
  | .unimpl2A => [0x2A#8]
  | .unimpl2F => [0x2F#8]
  | .unimpl32 => [0x32#8]
  | .unimpl37 => [0x37#8]
  | .unimpl39 => [0x39#8]
  | .unimpl3A => [0x3A#8]
  | .unimpl3F => [0x3F#8]
  | .unimpl76 => [0x76#8]
  | .unimplCB => [0xCB#8]
  | .unimplD3 => [0xD3#8]
  | .unimplD9 => [0xD9#8]
  | .unimplDB => [0xDB#8]
  | .unimplDD => [0xDD#8]
  | .unimplE0 => [0xE0#8]
  | .unimplE2 => [0xE2#8]
  | .unimplE3 => [0xE3#8]
  | .unimplE4 => [0xE4#8]
  | .unimplE8 => [0xE8#8]
  | .unimplE9 => [0xE9#8]
  | .unimplEA => [0xEA#8]
  | .unimplEB => [0xEB#8]
  | .unimplEC => [0xEC#8]
  | .unimplED => [0xED#8]
  | .unimplF0 => [0xF0#8]
  | .unimplF2 => [0xF2#8]
  | .unimplF4 => [0xF4#8]
  | .unimplF9 => [0xF9#8]
  | .unimplFA => [0xFA#8]
  | .unimplFC => [0xFC#8]
  | .unimplFD => [0xFD#8]

end Sys2Proof
end

