-- ==== Sys2Proof/Machine/Cycles.lean ====
section
/-! DEFINITION. The default CYCLE_TABLE, row by row from 70_reset_and_hazards R708. -/

namespace Sys2Proof.Machine

/-- The table of R708 (the ground of each count, src, derived or GK, stands there). -/
def cycleTableR708 : CycleTable where
  ldRN := 8
  ldHLN := 12
  ldRR := 4
  ldRHL := 8
  ldHLR := 8
  ldRpNN := 12
  aluR := 4
  aluHL := 8
  aluN := 8
  incDecR := 4
  incDecHL := 12
  incDecRp := 8
  ldHLSPe := 12
  push := 16
  pop := 12
  call := 24
  rst := 16
  ret := 16
  jp := 16
  jrCcTaken := 12
  jrCcNotTaken := 8
  retCcTaken := 20
  retCcNotTaken := 8
  eiDi := 4
  nop := 4
  jrE := 12
  jpCcTaken := 16
  jpCcNotTaken := 12
  callCcTaken := 24
  callCcNotTaken := 12

end Sys2Proof.Machine
end

