-- ==== Sys2Proof/Machine/State.lean ====
section
/-! DEFINITION. The machine's state (10_state R30: "this record, and nothing else"), the reasons a step can stop, the
power-on state (R51) and the reset state. -/

namespace Sys2Proof.Machine

/-- A fault record, the value FAULT takes when a step fails (60_exceptions R600). -/
inductive FaultRecord where
  /-- Code 1 (R601): `op` is the opcode byte, `pc` its address. -/
  | unimplementedOpcode (op : Byte) (pc : Addr)
  /-- Code 2 (R602): `a` is the first write address in the ROM window, `pc` the opcode's address. -/
  | romWrite (a pc : Addr)
  deriving DecidableEq, Repr

/-- The cause code of R600. -/
def FaultRecord.code : FaultRecord → Nat
  | .unimplementedOpcode _ _ => 1
  | .romWrite _ _ => 2

/-- Why a step is not enabled. -/
inductive Fault where
  /-- Raised by `step` alone, when FAULT already holds `r`: "Once FAULT is set no step is enabled" (R605, U17). Safe: it
  is the spec's own stop, and the state does not change. The step that SETS FAULT is a next state (R604). -/
  | sessionFailed (r : FaultRecord)
  deriving DecidableEq, Repr

/-- Why an instruction has no meaning here. -/
inductive Refusal where
  /-- Raised by an arm of `exec` for an instruction with no meaning yet; no arm does. Safe: the machine stops. -/
  | notModelled (mnemonic : String)
  deriving DecidableEq, Repr

/-- RAM, 65,536 bytes indexed 0x0000-0xFFFF (R48), as the cells that differ from `ramUnlisted`. -/
abbrev Memory := List Host.Cell

/-- What an unlisted RAM index reads as. DESIGN CHOICE, unsafe: the spec leaves RAM0 open (D15);
notes/assumptions/3.md. -/
def ramUnlisted : Byte := 0x00#8

/-- The canonical form of memory: indexes strictly rising and below 0x10000, no cell equal to what an unlisted index
reads as. -/
abbrev Memory.wf (m : Memory) : Prop :=
  m.Pairwise (fun x y => x.1 < y.1) ∧ ∀ c ∈ m, c.2 ≠ ramUnlisted ∧ c.1 < 0x10000

/-- The state of one core instance (R30), and the launch parameters of its session (R8). -/
structure State where
  /-- R31, general register A, the accumulator. -/
  a : Byte
  /-- R31. -/
  b : Byte
  /-- R31. -/
  c : Byte
  /-- R31. -/
  d : Byte
  /-- R31. -/
  e : Byte
  /-- R31. -/
  h : Byte
  /-- R31. -/
  l : Byte
  /-- R35, the flags byte: bit 7 Z, bit 6 N, bit 5 H, bit 4 C, bits 3..0 always 0. -/
  f : Byte
  /-- R41. -/
  sp : Addr
  /-- R42, the address of the next opcode byte to fetch. -/
  pc : Addr
  /-- R43, the interrupt master enable. -/
  ime : Bool
  /-- R44, elapsed cycles. -/
  clk : Nat
  /-- R48. -/
  ram : Memory
  /-- R45, the cartridge's first bank index. -/
  bank : Nat
  /-- R49. -/
  fault : Option FaultRecord
  /-- R8, fixed during a run. -/
  launch : Launch
  deriving DecidableEq, Repr

/-- The power-on state (R51, R700), for every value of the launch parameters REG0, IME0 and RAM0. -/
def State.powerOn (launch : Launch) (reg0 : Reg0) (ime0 : Bool) (ram0 : Memory) : State where
  a := reg0.a
  b := reg0.b
  c := reg0.c
  d := reg0.d
  e := reg0.e
  h := reg0.h
  l := reg0.l
  f := reg0.f &&& 0xF0#8
  sp := 0xFFFE#16
  pc := 0x0100#16
  ime := ime0
  clk := 0
  ram := ram0
  bank := 1
  fault := none
  launch := launch

/-- The launch parameters of the reset state: R8's default wherever it gives one. DESIGN CHOICE, unsafe: a cartridge
is present, with an empty ROM (notes/assumptions/4.md). -/
def launchDefault : Launch where
  cartPresent := true
  rom := []
  bankBaseAdjust := .one
  romWritePolicy := .fault
  admitNop := false
  admitJr := false
  admitJpCc := false
  admitCallCc := false
  cycleTable := cycleTableR708

/-- DESIGN CHOICE, unsafe: the spec leaves REG0 open (D12); all zero (notes/assumptions/1.md). -/
def reg0Default : Reg0 := ⟨0#8, 0#8, 0#8, 0#8, 0#8, 0#8, 0#8, 0#8⟩

/-- The machine right after power-on, with the launch defaults, IME0 = false (DESIGN CHOICE, unsafe, D13:
notes/assumptions/2.md) and nothing listed in RAM. -/
def State.reset : State := State.powerOn launchDefault reg0Default false []

end Sys2Proof.Machine
end

