-- ==== Sys2Proof/Machine/Ops.lean ====
section
/-! DEFINITION. The named operations over state: registers and flags byte, RAM, the memory bus (20_memory), the stack
helpers (42_stack_calls R400, R401), completing a step (30_encoding R141) and raising a fault (60_exceptions). -/

namespace Sys2Proof.Machine

/-! ## Fields -/

/-- Every write to F stores `v & 0xF0` (R35, D8). -/
def State.writeF (s : State) (v : Byte) : State := { s with f := v &&& 0xF0#8 }

def State.setSp (s : State) (v : Addr) : State := { s with sp := v }

def State.setIme (s : State) (v : Bool) : State := { s with ime := v }

/-! ## RAM: the sparse canonical list -/

/-- `RAM[i]`. -/
def ramRead : Memory → Nat → Byte
  | [], _ => ramUnlisted
  | (k, v) :: rest, i => if k = i then v else ramRead rest i

/-- Insert a cell before the first one with a higher index. -/
def ramInsert (i : Nat) (v : Byte) : Memory → Memory
  | [] => [(i, v)]
  | (k, w) :: rest => if i < k then (i, v) :: (k, w) :: rest else (k, w) :: ramInsert i v rest

/-- `RAM[i] <- v`. Writing what an unlisted index reads as leaves no cell. -/
def ramWrite (m : Memory) (i : Nat) (v : Byte) : Memory :=
  let others := m.filter (fun c => c.1 != i)
  if v = ramUnlisted then others else ramInsert i v others

/-- `RAM[i] <- v` on a state; `i` is a RAM index, after routing. -/
def State.setRam (s : State) (i : Addr) (v : Byte) : State := { s with ram := ramWrite s.ram i.toNat v }

/-! ## Routing (R71, R81) -/

/-- Where a bus address goes. -/
inductive Route where
  | cart
  | ram (index : Addr)
  deriving DecidableEq, Repr

/-- R71: below 0x8000 the cartridge if present; the echo range 0xE000-0xFDFF to 0xC000-0xDDFF; all else straight to
RAM. -/
def route (cartPresent : Bool) (a : Addr) : Route :=
  if a < 0x8000#16 ∧ cartPresent = true then .cart
  else if 0xE000#16 ≤ a ∧ a ≤ 0xFDFF#16 then .ram (a - 0x2000#16)
  else .ram a

def State.route (s : State) (a : Addr) : Route := Machine.route s.launch.cartPresent a

/-- BANK_BASE_ADJUST as an integer. -/
def bankBase : BankBaseAdjust → Int
  | .one => 1
  | .zero => 0

/-- The ROM offset of a cartridge address (R72), on integers. -/
def cartOffset (adjust : BankBaseAdjust) (bank : Nat) (a : Addr) : Int :=
  if a < 0x4000#16 then a.toNat
  else ((bank : Int) - bankBase adjust) * 0x4000 + (a.toNat - 0x4000)

/-- The byte at a ROM offset; 0xFF outside the image, for a negative offset or one from ROM_LEN on (R72, U8). -/
def romByte (rom : List Byte) (off : Int) : Byte :=
  if 0 ≤ off then rom.getD off.toNat 0xFF#8 else 0xFF#8

/-- `CartRead(a)` (R72). -/
def State.cartRead (s : State) (a : Addr) : Byte :=
  romByte s.launch.rom (cartOffset s.launch.bankBaseAdjust s.bank a)

/-! ## The bus primitives (R14) -/

/-- `MemRead(a, 1)` (R71). It changes no state (R80). -/
def State.busRead (s : State) (a : Addr) : Byte :=
  match s.route a with
  | .cart => s.cartRead a
  | .ram i => ramRead s.ram i.toNat

/-- `MemRead(a, 2)`, little-endian, each byte routed on its own (R75). -/
def State.busReadWord (s : State) (a : Addr) : Addr := word (s.busRead (a + 1#16)) (s.busRead a)

/-- `MemWrite(a, 1, v)` (R73): the new state, or the address of a write into the ROM window that raises RomWrite. -/
def State.busWrite (s : State) (a : Addr) (v : Byte) : Except Addr State :=
  match s.route a with
  | .cart =>
    match s.launch.romWritePolicy with
    | .fault => .error a
    | .ignore => .ok s
  | .ram i => .ok (s.setRam i (if a = 0xFF44#16 then 0x00#8 else v))

/-- `MemWrite(a, 2, v)` (R76): the low byte at a first, then the high byte at a + 1. -/
def State.busWriteWord (s : State) (a v : Addr) : Except Addr State :=
  match s.busWrite a (loByte v) with
  | .ok t => t.busWrite (a + 1#16) (hiByte v)
  | .error w => .error w

/-! ## The stack helpers -/

/-- `Push16(v)` (R400). -/
def State.push16 (s : State) (v : Addr) : Except Addr State :=
  (s.setSp (s.sp - 2#16)).busWriteWord (s.sp - 2#16) v

/-- The word `Pop16()` returns (R401). -/
def State.popValue (s : State) : Addr := s.busReadWord s.sp

/-- The state after `Pop16()` (R401): the bytes read stay in memory. -/
def State.popped (s : State) : State := s.setSp (s.sp + 2#16)

/-! ## Raising a fault -/

/-- The one operation that takes a fault (R600, R604, R608): FAULT gets the record and nothing else changes; no PC is
saved, no mode changes, no handler runs. There is no return from a fault (R609) and nothing clears FAULT (R605). -/
def State.raiseFault (s : State) (r : FaultRecord) : State := { s with fault := some r }

/-- `raise UnimplementedOpcode(op, pc)` (R601). -/
def raiseUnimplemented (op : Byte) (s : State) : Host.Outcome State Fault Refusal :=
  .next (s.raiseFault (.unimplementedOpcode op s.pc))

/-! ## Completing a step (R141) -/

/-- `PC <- next_pc; CLK <- CLK + cycles`. -/
def State.retire (s : State) (nextPc : Addr) (cycles : Nat) : State :=
  { s with pc := nextPc, clk := s.clk + cycles }

/-- A step that completes. -/
def complete (s : State) (nextPc : Addr) (cycles : Nat) : Host.Outcome State Fault Refusal :=
  .next (s.retire nextPc cycles)

/-- The end of a step of `s` that wrote memory: it completes, or its write raised RomWrite and every element but FAULT
is what it was before the step (R141, R602, R604). -/
def completeWrite (s : State) (written : Except Addr State) (nextPc : Addr) (cycles : Nat) :
    Host.Outcome State Fault Refusal :=
  match written with
  | .ok t => complete t nextPc cycles
  | .error a => .next (s.raiseFault (.romWrite a s.pc))

end Sys2Proof.Machine
end

