-- ==== Sys2Proof/Machine/Operands.lean ====
section
/-! DEFINITION. Operand forms: registers (10_state R33, R34), the pair views (R37), RP and RP2 (R39, R40), the (HL)
operand (R34), the flag accessors (R36) and the conditions (43_control R450). -/

namespace Sys2Proof.Machine

/-- `R8[e]` read, e ≠ 0b110 (R34). -/
def State.getReg (s : State) : Reg8 → Byte
  | .b => s.b
  | .c => s.c
  | .d => s.d
  | .e => s.e
  | .h => s.h
  | .l => s.l
  | .a => s.a

/-- `R8[e] <- v`, e ≠ 0b110 (R34). -/
def State.setReg (s : State) (r : Reg8) (v : Byte) : State :=
  match r with
  | .b => { s with b := v }
  | .c => { s with c := v }
  | .d => { s with d := v }
  | .e => { s with e := v }
  | .h => { s with h := v }
  | .l => { s with l := v }
  | .a => { s with a := v }

/-! ## The pair views (R37): the high byte is the first register -/

def State.af (s : State) : Addr := word s.a s.f
def State.bc (s : State) : Addr := word s.b s.c
def State.de (s : State) : Addr := word s.d s.e
def State.hl (s : State) : Addr := word s.h s.l

/-- `AF <- v`: F gets `v[7:0] & 0xF0` (R37, R35). -/
def State.setAf (s : State) (v : Addr) : State := { s with a := hiByte v }.writeF (loByte v)
def State.setBc (s : State) (v : Addr) : State := { s with b := hiByte v, c := loByte v }
def State.setDe (s : State) (v : Addr) : State := { s with d := hiByte v, e := loByte v }
def State.setHl (s : State) (v : Addr) : State := { s with h := hiByte v, l := loByte v }

/-- `RP[p]` read (R39). -/
def State.getPair (s : State) : RegPair → Addr
  | .bc => s.bc
  | .de => s.de
  | .hl => s.hl
  | .sp => s.sp

/-- `RP[p] <- v` (R39). -/
def State.setPair (s : State) (p : RegPair) (v : Addr) : State :=
  match p with
  | .bc => s.setBc v
  | .de => s.setDe v
  | .hl => s.setHl v
  | .sp => s.setSp v

/-- `RP2[p]` read (R40). -/
def State.getStackPair (s : State) : StackPair → Addr
  | .bc => s.bc
  | .de => s.de
  | .hl => s.hl
  | .af => s.af

/-- `RP2[p] <- v` (R40). -/
def State.setStackPair (s : State) (q : StackPair) (v : Addr) : State :=
  match q with
  | .bc => s.setBc v
  | .de => s.setDe v
  | .hl => s.setHl v
  | .af => s.setAf v

/-- `(HL)` read: the byte at address HL, at the moment of the access (R34). -/
def State.readHL (s : State) : Byte := s.busRead s.hl

/-- `(HL) <- v` (R34). -/
def State.writeHL (s : State) (v : Byte) : Except Addr State := s.busWrite s.hl v

/-! ## Flag accessors (R35, R36) -/

/-- The four meaningful bits of F. -/
inductive Flag where
  | z
  | n
  | h
  | c
  deriving DecidableEq, Repr

/-- R35: bit 7 Zero, bit 6 Subtract, bit 5 Half-carry, bit 4 Carry. -/
def flagBit : Flag → Nat
  | .z => 7
  | .n => 6
  | .h => 5
  | .c => 4

/-- `GetFlag(bit)` is `F[bit] = 1` (R36). -/
def State.getFlag (s : State) (k : Flag) : Bool := s.f.getLsbD (flagBit k)

/-- `SetFlag(bit, b)` is `F <- (F & ~(1 << bit)) | (bit(b) << bit)` (R36), a write to F (R35). -/
def State.setFlag (s : State) (k : Flag) (b : Bool) : State :=
  s.writeF ((s.f &&& ~~~(1#8 <<< flagBit k)) ||| ((BitVec.ofBool b).zeroExtend 8 <<< flagBit k))

def State.zf (s : State) : Bool := s.getFlag .z
def State.nf (s : State) : Bool := s.getFlag .n
def State.hf (s : State) : Bool := s.getFlag .h
def State.cf (s : State) : Bool := s.getFlag .c

/-- `Cond(cc)` (R450): it reads F and writes nothing. -/
def State.cond (s : State) : Cond → Bool
  | .nz => !s.zf
  | .z => s.zf
  | .nc => !s.cf
  | .c => s.cf

end Sys2Proof.Machine
end

