-- ==== Sys2Proof/Machine/Flags.lean ====
section
/-! DEFINITION. The ALU helpers with their flag computations (41_alu R300-R307), on exact integers, and the two ways an
instruction stores them: all four flags at once, or Z, N and H with C kept. -/

namespace Sys2Proof.Machine

/-- The four flags an arithmetic or logic instruction writes. -/
structure FlagBits where
  z : Bool
  n : Bool
  h : Bool
  c : Bool
  deriving DecidableEq, Repr

/-- The F byte of four flags (R35): bits 3..0 are 0. -/
def packFlags (g : FlagBits) : Byte :=
  BitVec.ofBool g.z ++ BitVec.ofBool g.n ++ BitVec.ofBool g.h ++ BitVec.ofBool g.c ++ 0#4

/-- What an ALU helper gives: a result and a new F. -/
structure AluResult where
  res : Byte
  flags : FlagBits
  deriving DecidableEq, Repr

/-- `(useCarry and Cf) ? 1 : 0` (R300, R301). -/
def carryIn (useCarry cf : Bool) : Nat := if useCarry && cf then 1 else 0

/-- `Add8` (R300). -/
def add8 (lhs rhs : Byte) (useCarry cf : Bool) : AluResult :=
  let cin := carryIn useCarry cf
  let full := lhs.toNat + rhs.toNat + cin
  let res := BitVec.ofNat 8 full
  { res
    flags :=
      { z := res == 0#8
        n := false
        h := decide (lowNibble lhs + lowNibble rhs + cin > 0xF)
        c := decide (full > 0xFF) } }

/-- `Sub8` (R301); the comparisons are on integers. -/
def sub8 (lhs rhs : Byte) (useCarry cf : Bool) : AluResult :=
  let cin := carryIn useCarry cf
  let full : Int := (lhs.toNat : Int) - ((rhs.toNat : Int) + cin)
  let res := BitVec.ofInt 8 full
  { res
    flags :=
      { z := res == 0#8
        n := true
        h := decide ((lowNibble lhs : Int) - ((lowNibble rhs : Int) + cin) < 0)
        c := decide (full < 0) } }

/-- A logic result: Z of the result, N = C = 0 and the given H (R302, R303, R304). -/
def logic8 (res : Byte) (h : Bool) : AluResult := { res, flags := { z := res == 0#8, n := false, h, c := false } }

/-- `And8` (R302): H = 1. -/
def and8 (lhs rhs : Byte) : AluResult := logic8 (lhs &&& rhs) true

/-- `Xor8` (R303). -/
def xor8 (lhs rhs : Byte) : AluResult := logic8 (lhs ^^^ rhs) false

/-- `Or8` (R304). -/
def or8 (lhs rhs : Byte) : AluResult := logic8 (lhs ||| rhs) false

/-- `Cp8` (R305): the flags of `Sub8(lhs, rhs, false)`; the numeric result is discarded. -/
def cp8 (lhs rhs : Byte) : FlagBits := (sub8 lhs rhs false false).flags

/-- What `Inc8` and `Dec8` give: a result and Z, N, H; C is not theirs to write (R306, R307). -/
structure StepResult where
  res : Byte
  z : Bool
  n : Bool
  h : Bool
  deriving DecidableEq, Repr

/-- `Inc8` (R306). -/
def inc8 (v : Byte) : StepResult :=
  let res := v + 1#8
  { res, z := res == 0#8, n := false, h := decide (lowNibble v + 1 > 0xF) }

/-- `Dec8` (R307). -/
def dec8 (v : Byte) : StepResult :=
  let res := v - 1#8
  { res, z := res == 0#8, n := true, h := decide ((lowNibble v : Int) - 1 < 0) }

/-- `F <- newF`: all four flags at once. -/
def State.setFlags (s : State) (g : FlagBits) : State := s.writeF (packFlags g)

/-- `A <- res; F <- newF` (R309). -/
def State.setAlu (s : State) (r : AluResult) : State := { s with a := r.res }.setFlags r.flags

/-- `Zf, Nf, Hf <- ...`, C unchanged (R306, R307). -/
def State.setZNH (s : State) (r : StepResult) : State :=
  ((s.setFlag .z r.z).setFlag .n r.n).setFlag .h r.h

end Sys2Proof.Machine
end

