-- ==== Sys2Proof/Machine/Alu.lean ====
section
/-! DEFINITION. The 8-bit arithmetic and logic instructions (41_alu R309-R333): the first operand is A, the second a
register, the byte at HL, or n8; all four flags are written, and every operation but CP writes A. -/

namespace Sys2Proof.Machine

/-- The end of ALU A,r (cost 4 in R708). -/
def completeAluR (s t : State) : Host.Outcome State Fault Refusal :=
  complete t (s.pc + 1#16) s.launch.cycleTable.aluR

/-- The end of ALU A,(HL) (cost 8 in R708). -/
def completeAluHL (s t : State) : Host.Outcome State Fault Refusal :=
  complete t (s.pc + 1#16) s.launch.cycleTable.aluHL

/-- The end of ALU A,n (cost 8 in R708). -/
def completeAluN (s t : State) : Host.Outcome State Fault Refusal :=
  complete t (s.pc + 2#16) s.launch.cycleTable.aluN

/-- ADD A,r (R310). -/
def execAddR (r : Reg8) (s : State) : Host.Outcome State Fault Refusal :=
  completeAluR s (s.setAlu (add8 s.a (s.getReg r) false s.cf))

/-- ADD A,(HL) (R311). -/
def execAddHL (s : State) : Host.Outcome State Fault Refusal :=
  completeAluHL s (s.setAlu (add8 s.a s.readHL false s.cf))

/-- ADD A,n (R312). -/
def execAddN (n : Byte) (s : State) : Host.Outcome State Fault Refusal :=
  completeAluN s (s.setAlu (add8 s.a n false s.cf))

/-- ADC A,r (R313). -/
def execAdcR (r : Reg8) (s : State) : Host.Outcome State Fault Refusal :=
  completeAluR s (s.setAlu (add8 s.a (s.getReg r) true s.cf))

/-- ADC A,(HL) (R314). -/
def execAdcHL (s : State) : Host.Outcome State Fault Refusal :=
  completeAluHL s (s.setAlu (add8 s.a s.readHL true s.cf))

/-- ADC A,n (R315). -/
def execAdcN (n : Byte) (s : State) : Host.Outcome State Fault Refusal :=
  completeAluN s (s.setAlu (add8 s.a n true s.cf))

/-- SUB r (R316). -/
def execSubR (r : Reg8) (s : State) : Host.Outcome State Fault Refusal :=
  completeAluR s (s.setAlu (sub8 s.a (s.getReg r) false s.cf))

/-- SUB (HL) (R317). -/
def execSubHL (s : State) : Host.Outcome State Fault Refusal :=
  completeAluHL s (s.setAlu (sub8 s.a s.readHL false s.cf))

/-- SUB n (R318). -/
def execSubN (n : Byte) (s : State) : Host.Outcome State Fault Refusal :=
  completeAluN s (s.setAlu (sub8 s.a n false s.cf))

/-- SBC A,r (R319). -/
def execSbcR (r : Reg8) (s : State) : Host.Outcome State Fault Refusal :=
  completeAluR s (s.setAlu (sub8 s.a (s.getReg r) true s.cf))

/-- SBC A,(HL) (R320). -/
def execSbcHL (s : State) : Host.Outcome State Fault Refusal :=
  completeAluHL s (s.setAlu (sub8 s.a s.readHL true s.cf))

/-- SBC A,n (R321). -/
def execSbcN (n : Byte) (s : State) : Host.Outcome State Fault Refusal :=
  completeAluN s (s.setAlu (sub8 s.a n true s.cf))

/-- AND r (R322). -/
def execAndR (r : Reg8) (s : State) : Host.Outcome State Fault Refusal :=
  completeAluR s (s.setAlu (and8 s.a (s.getReg r)))

/-- AND (HL) (R323). -/
def execAndHL (s : State) : Host.Outcome State Fault Refusal :=
  completeAluHL s (s.setAlu (and8 s.a s.readHL))

/-- AND n (R324). -/
def execAndN (n : Byte) (s : State) : Host.Outcome State Fault Refusal :=
  completeAluN s (s.setAlu (and8 s.a n))

/-- XOR r (R325). -/
def execXorR (r : Reg8) (s : State) : Host.Outcome State Fault Refusal :=
  completeAluR s (s.setAlu (xor8 s.a (s.getReg r)))

/-- XOR (HL) (R326). -/
def execXorHL (s : State) : Host.Outcome State Fault Refusal :=
  completeAluHL s (s.setAlu (xor8 s.a s.readHL))

/-- XOR n (R327). -/
def execXorN (n : Byte) (s : State) : Host.Outcome State Fault Refusal :=
  completeAluN s (s.setAlu (xor8 s.a n))

/-- OR r (R328). -/
def execOrR (r : Reg8) (s : State) : Host.Outcome State Fault Refusal :=
  completeAluR s (s.setAlu (or8 s.a (s.getReg r)))

/-- OR (HL) (R329). -/
def execOrHL (s : State) : Host.Outcome State Fault Refusal :=
  completeAluHL s (s.setAlu (or8 s.a s.readHL))

/-- OR n (R330). -/
def execOrN (n : Byte) (s : State) : Host.Outcome State Fault Refusal :=
  completeAluN s (s.setAlu (or8 s.a n))

/-- CP r (R331). -/
def execCpR (r : Reg8) (s : State) : Host.Outcome State Fault Refusal :=
  completeAluR s (s.setFlags (cp8 s.a (s.getReg r)))

/-- CP (HL) (R332). -/
def execCpHL (s : State) : Host.Outcome State Fault Refusal :=
  completeAluHL s (s.setFlags (cp8 s.a s.readHL))

/-- CP n (R333). -/
def execCpN (n : Byte) (s : State) : Host.Outcome State Fault Refusal :=
  completeAluN s (s.setFlags (cp8 s.a n))

end Sys2Proof.Machine
end

