-- ==== Sys2Proof/Machine/Control.lean ====
section
/-! DEFINITION. Jumps, relative jumps and conditional transfers (43_control R451-R456). The three optional ones raise
UnimplementedOpcode where the launch does not admit them (30_encoding R134, 44_system R504). -/

namespace Sys2Proof.Machine

/-- `(pc + 2 + s8(e)) mod 2^16` (R452, R454): the target of a relative jump at `pc`. -/
def relTarget (pc : Addr) (e : Byte) : Addr := pc + 2#16 + sext16 e

/-- JP nn (R451). -/
def execJp (nn : Addr) (s : State) : Host.Outcome State Fault Refusal :=
  complete s nn s.launch.cycleTable.jp

/-- JR cc,e (R452). -/
def execJrCc (cc : Cond) (e : Byte) (s : State) : Host.Outcome State Fault Refusal :=
  if s.cond cc then complete s (relTarget s.pc e) s.launch.cycleTable.jrCcTaken
  else complete s (s.pc + 2#16) s.launch.cycleTable.jrCcNotTaken

/-- RET cc (R453). -/
def execRetCc (cc : Cond) (s : State) : Host.Outcome State Fault Refusal :=
  if s.cond cc then complete s.popped s.popValue s.launch.cycleTable.retCcTaken
  else complete s (s.pc + 1#16) s.launch.cycleTable.retCcNotTaken

/-- JR e (R454), admitted iff ADMIT_JR. -/
def execJrE (e : Byte) (s : State) : Host.Outcome State Fault Refusal :=
  if s.launch.admitJr then complete s (relTarget s.pc e) s.launch.cycleTable.jrE
  else raiseUnimplemented 0x18#8 s

/-- JP cc,nn (R455), admitted iff ADMIT_JP_CC. -/
def execJpCc (cc : Cond) (nn : Addr) (s : State) : Host.Outcome State Fault Refusal :=
  if s.launch.admitJpCc then
    if s.cond cc then complete s nn s.launch.cycleTable.jpCcTaken
    else complete s (s.pc + 3#16) s.launch.cycleTable.jpCcNotTaken
  else raiseUnimplemented (0b110#3 ++ cc.code ++ 0b010#3) s

/-- CALL cc,nn (R456), admitted iff ADMIT_CALL_CC. -/
def execCallCc (cc : Cond) (nn : Addr) (s : State) : Host.Outcome State Fault Refusal :=
  if s.launch.admitCallCc then
    if s.cond cc then completeWrite s (s.push16 (s.pc + 3#16)) nn s.launch.cycleTable.callCcTaken
    else complete s (s.pc + 3#16) s.launch.cycleTable.callCcNotTaken
  else raiseUnimplemented (0b110#3 ++ cc.code ++ 0b100#3) s

end Sys2Proof.Machine
end

