-- ==== Sys2Proof/Machine/IncDec.lean ====
section
/-! DEFINITION. 8-bit and 16-bit increment and decrement, and LD HL,SP+e (41_alu R334-R340). -/

namespace Sys2Proof.Machine

/-- INC r (R334): C is not written. -/
def execIncR (r : Reg8) (s : State) : Host.Outcome State Fault Refusal :=
  let out := inc8 (s.getReg r)
  complete ((s.setReg r out.res).setZNH out) (s.pc + 1#16) s.launch.cycleTable.incDecR

/-- INC (HL) (R335). -/
def execIncHL (s : State) : Host.Outcome State Fault Refusal :=
  let out := inc8 s.readHL
  completeWrite s ((s.writeHL out.res).map fun t => t.setZNH out) (s.pc + 1#16) s.launch.cycleTable.incDecHL

/-- DEC r (R336): C is not written. -/
def execDecR (r : Reg8) (s : State) : Host.Outcome State Fault Refusal :=
  let out := dec8 (s.getReg r)
  complete ((s.setReg r out.res).setZNH out) (s.pc + 1#16) s.launch.cycleTable.incDecR

/-- DEC (HL) (R337). -/
def execDecHL (s : State) : Host.Outcome State Fault Refusal :=
  let out := dec8 s.readHL
  completeWrite s ((s.writeHL out.res).map fun t => t.setZNH out) (s.pc + 1#16) s.launch.cycleTable.incDecHL

/-- INC rp (R338): no flag. -/
def execIncRp (p : RegPair) (s : State) : Host.Outcome State Fault Refusal :=
  complete (s.setPair p (s.getPair p + 1#16)) (s.pc + 1#16) s.launch.cycleTable.incDecRp

/-- DEC rp (R339): no flag. -/
def execDecRp (p : RegPair) (s : State) : Host.Outcome State Fault Refusal :=
  complete (s.setPair p (s.getPair p - 1#16)) (s.pc + 1#16) s.launch.cycleTable.incDecRp

/-- The flags of LD HL,SP+e (R340): H and C of `Add8(SP & 0xFF, e, false)` on the raw byte, Z = N = 0. -/
def spPlusFlags (sp : Addr) (e : Byte) : FlagBits :=
  let low := (add8 (loByte sp) e false false).flags
  { z := false, n := false, h := low.h, c := low.c }

/-- LD HL,SP+e (R340): SP is not changed. -/
def execLdHLSPe (e : Byte) (s : State) : Host.Outcome State Fault Refusal :=
  complete ((s.setHl (s.sp + sext16 e)).setFlags (spPlusFlags s.sp e)) (s.pc + 2#16) s.launch.cycleTable.ldHLSPe

end Sys2Proof.Machine
end

