-- ==== Sys2Proof/Machine/Loads.lean ====
section
/-! DEFINITION. Load instructions (40_loads R200-R205). Loads write no flag. -/

namespace Sys2Proof.Machine

/-- LD r,n (R200). -/
def execLdRN (r : Reg8) (n : Byte) (s : State) : Host.Outcome State Fault Refusal :=
  complete (s.setReg r n) (s.pc + 2#16) s.launch.cycleTable.ldRN

/-- LD (HL),n (R201). -/
def execLdHLN (n : Byte) (s : State) : Host.Outcome State Fault Refusal :=
  completeWrite s (s.writeHL n) (s.pc + 2#16) s.launch.cycleTable.ldHLN

/-- LD r,r' (R202). -/
def execLdRR (dst src : Reg8) (s : State) : Host.Outcome State Fault Refusal :=
  complete (s.setReg dst (s.getReg src)) (s.pc + 1#16) s.launch.cycleTable.ldRR

/-- LD r,(HL) (R203). -/
def execLdRHL (dst : Reg8) (s : State) : Host.Outcome State Fault Refusal :=
  complete (s.setReg dst s.readHL) (s.pc + 1#16) s.launch.cycleTable.ldRHL

/-- LD (HL),r (R204). -/
def execLdHLR (src : Reg8) (s : State) : Host.Outcome State Fault Refusal :=
  completeWrite s (s.writeHL (s.getReg src)) (s.pc + 1#16) s.launch.cycleTable.ldHLR

/-- LD rp,nn (R205). -/
def execLdRpNN (p : RegPair) (nn : Addr) (s : State) : Host.Outcome State Fault Refusal :=
  complete (s.setPair p nn) (s.pc + 3#16) s.launch.cycleTable.ldRpNN

end Sys2Proof.Machine
end

