-- ==== Sys2Proof/Machine/Stack.lean ====
section
/-! DEFINITION. Stack operations, calls, restarts and returns (42_stack_calls R402-R406). -/

namespace Sys2Proof.Machine

/-- PUSH rp2 (R402). -/
def execPush (q : StackPair) (s : State) : Host.Outcome State Fault Refusal :=
  completeWrite s (s.push16 (s.getStackPair q)) (s.pc + 1#16) s.launch.cycleTable.push

/-- POP rp2 (R403). -/
def execPop (q : StackPair) (s : State) : Host.Outcome State Fault Refusal :=
  complete (s.popped.setStackPair q s.popValue) (s.pc + 1#16) s.launch.cycleTable.pop

/-- CALL nn (R404): pushes the address of the instruction after it. -/
def execCall (nn : Addr) (s : State) : Host.Outcome State Fault Refusal :=
  completeWrite s (s.push16 (s.pc + 3#16)) nn s.launch.cycleTable.call

/-- RST t (R405): pushes pc + 1 (D11, conflict C3). -/
def execRst (t : Byte) (s : State) : Host.Outcome State Fault Refusal :=
  completeWrite s (s.push16 (s.pc + 1#16)) (zext16 t) s.launch.cycleTable.rst

/-- RET (R406). -/
def execRet (s : State) : Host.Outcome State Fault Refusal :=
  complete s.popped s.popValue s.launch.cycleTable.ret

end Sys2Proof.Machine
end

