-- ==== Sys2Proof/Machine/System.lean ====
section
/-! DEFINITION. EI, DI and the optional NOP (44_system R500-R502). -/

namespace Sys2Proof.Machine

/-- EI (R500): takes effect at once (D20). -/
def execEi (s : State) : Host.Outcome State Fault Refusal :=
  complete (s.setIme true) (s.pc + 1#16) s.launch.cycleTable.eiDi

/-- DI (R501): takes effect at once (D20). -/
def execDi (s : State) : Host.Outcome State Fault Refusal :=
  complete (s.setIme false) (s.pc + 1#16) s.launch.cycleTable.eiDi

/-- NOP (R502), admitted iff ADMIT_NOP. -/
def execNop (s : State) : Host.Outcome State Fault Refusal :=
  if s.launch.admitNop then complete s (s.pc + 1#16) s.launch.cycleTable.nop
  else raiseUnimplemented 0x00#8 s

end Sys2Proof.Machine
end

