-- ==== Sys2Proof/Machine/Unimplemented.lean ====
section
/-! DEFINITION. The 45 faulting opcode bytes (30_encoding R135; 44_system R503 for 0x76, R504 for the others): each
raises UnimplementedOpcode with its own byte, and nothing else changes. -/

namespace Sys2Proof.Machine

/-- 0x02 (R504). -/
def execUnimpl02 (s : State) : Host.Outcome State Fault Refusal := raiseUnimplemented 0x02#8 s

/-- 0x07 (R504). -/
def execUnimpl07 (s : State) : Host.Outcome State Fault Refusal := raiseUnimplemented 0x07#8 s

/-- 0x08 (R504). -/
def execUnimpl08 (s : State) : Host.Outcome State Fault Refusal := raiseUnimplemented 0x08#8 s

/-- 0x09 (R504). -/
def execUnimpl09 (s : State) : Host.Outcome State Fault Refusal := raiseUnimplemented 0x09#8 s

/-- 0x0A (R504). -/
def execUnimpl0A (s : State) : Host.Outcome State Fault Refusal := raiseUnimplemented 0x0A#8 s

/-- 0x0F (R504). -/
def execUnimpl0F (s : State) : Host.Outcome State Fault Refusal := raiseUnimplemented 0x0F#8 s

/-- 0x10 (R504). -/
def execUnimpl10 (s : State) : Host.Outcome State Fault Refusal := raiseUnimplemented 0x10#8 s

/-- 0x12 (R504). -/
def execUnimpl12 (s : State) : Host.Outcome State Fault Refusal := raiseUnimplemented 0x12#8 s

/-- 0x17 (R504). -/
def execUnimpl17 (s : State) : Host.Outcome State Fault Refusal := raiseUnimplemented 0x17#8 s

/-- 0x19 (R504). -/
def execUnimpl19 (s : State) : Host.Outcome State Fault Refusal := raiseUnimplemented 0x19#8 s

/-- 0x1A (R504). -/
def execUnimpl1A (s : State) : Host.Outcome State Fault Refusal := raiseUnimplemented 0x1A#8 s

/-- 0x1F (R504). -/
def execUnimpl1F (s : State) : Host.Outcome State Fault Refusal := raiseUnimplemented 0x1F#8 s

/-- 0x22 (R504). -/
def execUnimpl22 (s : State) : Host.Outcome State Fault Refusal := raiseUnimplemented 0x22#8 s

/-- 0x27 (R504). -/
def execUnimpl27 (s : State) : Host.Outcome State Fault Refusal := raiseUnimplemented 0x27#8 s

/-- 0x29 (R504). -/
def execUnimpl29 (s : State) : Host.Outcome State Fault Refusal := raiseUnimplemented 0x29#8 s

/-- 0x2A (R504). -/
def execUnimpl2A (s : State) : Host.Outcome State Fault Refusal := raiseUnimplemented 0x2A#8 s

/-- 0x2F (R504). -/
def execUnimpl2F (s : State) : Host.Outcome State Fault Refusal := raiseUnimplemented 0x2F#8 s

/-- 0x32 (R504). -/
def execUnimpl32 (s : State) : Host.Outcome State Fault Refusal := raiseUnimplemented 0x32#8 s

/-- 0x37 (R504). -/
def execUnimpl37 (s : State) : Host.Outcome State Fault Refusal := raiseUnimplemented 0x37#8 s

/-- 0x39 (R504). -/
def execUnimpl39 (s : State) : Host.Outcome State Fault Refusal := raiseUnimplemented 0x39#8 s

/-- 0x3A (R504). -/
def execUnimpl3A (s : State) : Host.Outcome State Fault Refusal := raiseUnimplemented 0x3A#8 s

/-- 0x3F (R504). -/
def execUnimpl3F (s : State) : Host.Outcome State Fault Refusal := raiseUnimplemented 0x3F#8 s

/-- 0x76 (R503). -/
def execUnimpl76 (s : State) : Host.Outcome State Fault Refusal := raiseUnimplemented 0x76#8 s

/-- 0xCB (R504). -/
def execUnimplCB (s : State) : Host.Outcome State Fault Refusal := raiseUnimplemented 0xCB#8 s

/-- 0xD3 (R504). -/
def execUnimplD3 (s : State) : Host.Outcome State Fault Refusal := raiseUnimplemented 0xD3#8 s

/-- 0xD9 (R504). -/
def execUnimplD9 (s : State) : Host.Outcome State Fault Refusal := raiseUnimplemented 0xD9#8 s

/-- 0xDB (R504). -/
def execUnimplDB (s : State) : Host.Outcome State Fault Refusal := raiseUnimplemented 0xDB#8 s

/-- 0xDD (R504). -/
def execUnimplDD (s : State) : Host.Outcome State Fault Refusal := raiseUnimplemented 0xDD#8 s

/-- 0xE0 (R504). -/
def execUnimplE0 (s : State) : Host.Outcome State Fault Refusal := raiseUnimplemented 0xE0#8 s

/-- 0xE2 (R504). -/
def execUnimplE2 (s : State) : Host.Outcome State Fault Refusal := raiseUnimplemented 0xE2#8 s

/-- 0xE3 (R504). -/
def execUnimplE3 (s : State) : Host.Outcome State Fault Refusal := raiseUnimplemented 0xE3#8 s

/-- 0xE4 (R504). -/
def execUnimplE4 (s : State) : Host.Outcome State Fault Refusal := raiseUnimplemented 0xE4#8 s

/-- 0xE8 (R504). -/
def execUnimplE8 (s : State) : Host.Outcome State Fault Refusal := raiseUnimplemented 0xE8#8 s

/-- 0xE9 (R504). -/
def execUnimplE9 (s : State) : Host.Outcome State Fault Refusal := raiseUnimplemented 0xE9#8 s

/-- 0xEA (R504). -/
def execUnimplEA (s : State) : Host.Outcome State Fault Refusal := raiseUnimplemented 0xEA#8 s

/-- 0xEB (R504). -/
def execUnimplEB (s : State) : Host.Outcome State Fault Refusal := raiseUnimplemented 0xEB#8 s

/-- 0xEC (R504). -/
def execUnimplEC (s : State) : Host.Outcome State Fault Refusal := raiseUnimplemented 0xEC#8 s

/-- 0xED (R504). -/
def execUnimplED (s : State) : Host.Outcome State Fault Refusal := raiseUnimplemented 0xED#8 s

/-- 0xF0 (R504). -/
def execUnimplF0 (s : State) : Host.Outcome State Fault Refusal := raiseUnimplemented 0xF0#8 s

/-- 0xF2 (R504). -/
def execUnimplF2 (s : State) : Host.Outcome State Fault Refusal := raiseUnimplemented 0xF2#8 s

/-- 0xF4 (R504). -/
def execUnimplF4 (s : State) : Host.Outcome State Fault Refusal := raiseUnimplemented 0xF4#8 s

/-- 0xF9 (R504). -/
def execUnimplF9 (s : State) : Host.Outcome State Fault Refusal := raiseUnimplemented 0xF9#8 s

/-- 0xFA (R504). -/
def execUnimplFA (s : State) : Host.Outcome State Fault Refusal := raiseUnimplemented 0xFA#8 s

/-- 0xFC (R504). -/
def execUnimplFC (s : State) : Host.Outcome State Fault Refusal := raiseUnimplemented 0xFC#8 s

/-- 0xFD (R504). -/
def execUnimplFD (s : State) : Host.Outcome State Fault Refusal := raiseUnimplemented 0xFD#8 s

end Sys2Proof.Machine
end

