-- ==== Sys2Proof/Machine/Dispatch.lean ====
section
/-! DEFINITION. One arm per constructor of Instr, each one call of its meaning. -/

namespace Sys2Proof.Machine

def exec (i : Instr) (s : State) : Host.Outcome State Fault Refusal :=
  match i with
  | .ldRN r n => Sys2Proof.Machine.execLdRN r n s
  | .ldHLN n => Sys2Proof.Machine.execLdHLN n s
  | .ldRR dst src => Sys2Proof.Machine.execLdRR dst src s
  | .ldRHL dst => Sys2Proof.Machine.execLdRHL dst s
  | .ldHLR src => Sys2Proof.Machine.execLdHLR src s
  | .ldRpNN p nn => Sys2Proof.Machine.execLdRpNN p nn s
  | .addR r => Sys2Proof.Machine.execAddR r s
  | .addHL => Sys2Proof.Machine.execAddHL s
  | .addN n => Sys2Proof.Machine.execAddN n s
  | .adcR r => Sys2Proof.Machine.execAdcR r s
  | .adcHL => Sys2Proof.Machine.execAdcHL s
  | .adcN n => Sys2Proof.Machine.execAdcN n s
  | .subR r => Sys2Proof.Machine.execSubR r s
  | .subHL => Sys2Proof.Machine.execSubHL s
  | .subN n => Sys2Proof.Machine.execSubN n s
  | .sbcR r => Sys2Proof.Machine.execSbcR r s
  | .sbcHL => Sys2Proof.Machine.execSbcHL s
  | .sbcN n => Sys2Proof.Machine.execSbcN n s
  | .andR r => Sys2Proof.Machine.execAndR r s
  | .andHL => Sys2Proof.Machine.execAndHL s
  | .andN n => Sys2Proof.Machine.execAndN n s
  | .xorR r => Sys2Proof.Machine.execXorR r s
  | .xorHL => Sys2Proof.Machine.execXorHL s
  | .xorN n => Sys2Proof.Machine.execXorN n s
  | .orR r => Sys2Proof.Machine.execOrR r s
  | .orHL => Sys2Proof.Machine.execOrHL s
  | .orN n => Sys2Proof.Machine.execOrN n s
  | .cpR r => Sys2Proof.Machine.execCpR r s
  | .cpHL => Sys2Proof.Machine.execCpHL s
  | .cpN n => Sys2Proof.Machine.execCpN n s
  | .incR r => Sys2Proof.Machine.execIncR r s
  | .incHL => Sys2Proof.Machine.execIncHL s
  | .decR r => Sys2Proof.Machine.execDecR r s
  | .decHL => Sys2Proof.Machine.execDecHL s
  | .incRp p => Sys2Proof.Machine.execIncRp p s
  | .decRp p => Sys2Proof.Machine.execDecRp p s
  | .ldHLSPe e => Sys2Proof.Machine.execLdHLSPe e s
  | .push q => Sys2Proof.Machine.execPush q s
  | .pop q => Sys2Proof.Machine.execPop q s
  | .call nn => Sys2Proof.Machine.execCall nn s
  | .rst t => Sys2Proof.Machine.execRst t s
  | .ret => Sys2Proof.Machine.execRet s
  | .jp nn => Sys2Proof.Machine.execJp nn s
  | .jrCc cc e => Sys2Proof.Machine.execJrCc cc e s
  | .retCc cc => Sys2Proof.Machine.execRetCc cc s
  | .ei => Sys2Proof.Machine.execEi s
  | .di => Sys2Proof.Machine.execDi s
  | .nop => Sys2Proof.Machine.execNop s
  | .jrE e => Sys2Proof.Machine.execJrE e s
  | .jpCc cc nn => Sys2Proof.Machine.execJpCc cc nn s
  | .callCc cc nn => Sys2Proof.Machine.execCallCc cc nn s
  | .unimpl02 => Sys2Proof.Machine.execUnimpl02 s
  | .unimpl07 => Sys2Proof.Machine.execUnimpl07 s
  | .unimpl08 => Sys2Proof.Machine.execUnimpl08 s
  | .unimpl09 => Sys2Proof.Machine.execUnimpl09 s
  | .unimpl0A => Sys2Proof.Machine.execUnimpl0A s
  | .unimpl0F => Sys2Proof.Machine.execUnimpl0F s
  | .unimpl10 => Sys2Proof.Machine.execUnimpl10 s
  | .unimpl12 => Sys2Proof.Machine.execUnimpl12 s
  | .unimpl17 => Sys2Proof.Machine.execUnimpl17 s
  | .unimpl19 => Sys2Proof.Machine.execUnimpl19 s
  | .unimpl1A => Sys2Proof.Machine.execUnimpl1A s
  | .unimpl1F => Sys2Proof.Machine.execUnimpl1F s
  | .unimpl22 => Sys2Proof.Machine.execUnimpl22 s
  | .unimpl27 => Sys2Proof.Machine.execUnimpl27 s
  | .unimpl29 => Sys2Proof.Machine.execUnimpl29 s
  | .unimpl2A => Sys2Proof.Machine.execUnimpl2A s
  | .unimpl2F => Sys2Proof.Machine.execUnimpl2F s
  | .unimpl32 => Sys2Proof.Machine.execUnimpl32 s
  | .unimpl37 => Sys2Proof.Machine.execUnimpl37 s
  | .unimpl39 => Sys2Proof.Machine.execUnimpl39 s
  | .unimpl3A => Sys2Proof.Machine.execUnimpl3A s
  | .unimpl3F => Sys2Proof.Machine.execUnimpl3F s
  | .unimpl76 => Sys2Proof.Machine.execUnimpl76 s
  | .unimplCB => Sys2Proof.Machine.execUnimplCB s
  | .unimplD3 => Sys2Proof.Machine.execUnimplD3 s
  | .unimplD9 => Sys2Proof.Machine.execUnimplD9 s
  | .unimplDB => Sys2Proof.Machine.execUnimplDB s
  | .unimplDD => Sys2Proof.Machine.execUnimplDD s
  | .unimplE0 => Sys2Proof.Machine.execUnimplE0 s
  | .unimplE2 => Sys2Proof.Machine.execUnimplE2 s
  | .unimplE3 => Sys2Proof.Machine.execUnimplE3 s
  | .unimplE4 => Sys2Proof.Machine.execUnimplE4 s
  | .unimplE8 => Sys2Proof.Machine.execUnimplE8 s
  | .unimplE9 => Sys2Proof.Machine.execUnimplE9 s
  | .unimplEA => Sys2Proof.Machine.execUnimplEA s
  | .unimplEB => Sys2Proof.Machine.execUnimplEB s
  | .unimplEC => Sys2Proof.Machine.execUnimplEC s
  | .unimplED => Sys2Proof.Machine.execUnimplED s
  | .unimplF0 => Sys2Proof.Machine.execUnimplF0 s
  | .unimplF2 => Sys2Proof.Machine.execUnimplF2 s
  | .unimplF4 => Sys2Proof.Machine.execUnimplF4 s
  | .unimplF9 => Sys2Proof.Machine.execUnimplF9 s
  | .unimplFA => Sys2Proof.Machine.execUnimplFA s
  | .unimplFC => Sys2Proof.Machine.execUnimplFC s
  | .unimplFD => Sys2Proof.Machine.execUnimplFD s

end Sys2Proof.Machine
end

