-- ==== Sys2Proof/Machine/Fetch.lean ====
section
/-! DEFINITION. Fetching an instruction's bytes through the bus (30_encoding R120, R123-R125, R141), and placing bytes
where the next fetch reads them. -/

namespace Sys2Proof.Machine

/-- How many bytes a step fetches: the instruction's, where the opcode is admitted (R120); the opcode alone where it
faults, of the 45 or of an optional group the launch does not admit (R136, R504). -/
def fetchLength (launch : Launch) (op : Byte) : Nat := if opcodeAdmitted launch op then instrLength op else 1

/-- The bytes a step fetches: the opcode at pc, then exactly the operand bytes its format names, at pc+1 and pc+2 in
address order, addresses `mod 2^16` (R122, D9); none for an opcode that faults (R136, R504). -/
def State.fetchBytes (s : State) : List Byte :=
  let op := s.busRead s.pc
  match fetchLength s.launch op with
  | 2 => [op, s.busRead (s.pc + 1#16)]
  | 3 => [op, s.busRead (s.pc + 1#16), s.busRead (s.pc + 2#16)]
  | _ => [op]

/-- The instruction a step runs: the decoding of the bytes fetched. An operand byte that is not fetched counts as 0; no
meaning that completes uses one, since an opcode that is not admitted raises UnimplementedOpcode. -/
def State.fetchInstr (s : State) : Instr :=
  let bytes := s.fetchBytes
  decodeOp (bytes.getD 0 0#8) (bytes.getD 1 0#8) (bytes.getD 2 0#8)

/-- Set the byte at an index, padding with 0xFF, which is what a byte past the image reads as (R72). -/
def setRomByte : List Byte → Nat → Byte → List Byte
  | [], 0, v => [v]
  | [], k + 1, v => 0xFF#8 :: setRomByte [] k v
  | _ :: rest, 0, v => v :: rest
  | b :: rest, k + 1, v => b :: setRomByte rest k v

/-- Where a bank index leaves the window 0x4000-0x7FFF with no ROM offset (BANK below BANK_BASE_ADJUST), the lowest one
that has: needed only to place bytes there (notes/assumptions/5.md). -/
def State.bankForWindow (s : State) : Nat :=
  match s.launch.bankBaseAdjust with
  | .one => if s.bank = 0 then 1 else s.bank
  | .zero => s.bank

/-- Place a byte where the bus reads address `a`: in the ROM image or in RAM. It is a host's placement at launch
(70_reset_and_hazards R703 step 1), not a bus write. -/
def State.placeByte (s : State) (a : Addr) (v : Byte) : State :=
  match s.route a with
  | .ram i => s.setRam i v
  | .cart =>
    let bank := if a < 0x4000#16 then s.bank else s.bankForWindow
    let off := cartOffset s.launch.bankBaseAdjust bank a
    { s with bank := bank, launch := { s.launch with rom := setRomByte s.launch.rom off.toNat v } }

/-- Place bytes at consecutive addresses. -/
def State.placeBytes (s : State) (a : Addr) : List Byte → State
  | [] => s
  | v :: rest => (s.placeByte a v).placeBytes (a + 1#16) rest

end Sys2Proof.Machine
end

