-- ==== Sys2Proof/Machine/Step.lean ====
section
/-! DEFINITION. One step (30_encoding R141). -/

namespace Sys2Proof.Machine

/-- R141: no step is enabled once FAULT is set (R605); otherwise the instruction at PC runs to completion. -/
def step (s : State) : Host.Outcome State Fault Refusal :=
  match s.fault with
  | some r => .fault (.sessionFailed r)
  | none => exec s.fetchInstr s

/-- `s` with the instruction of bits `w` (three bytes, the bits from `nbits` on 0) where the next step fetches it, and
FAULT none, so that the step is enabled (notes/assumptions/5.md). -/
def State.withFetchWord (s : State) (nbits w : Nat) : State :=
  let v := w % 2 ^ nbits
  { s with fault := none }.placeBytes s.pc [BitVec.ofNat 8 v, BitVec.ofNat 8 (v / 256), BitVec.ofNat 8 (v / 65536)]

end Sys2Proof.Machine
end

