-- ==== Sys2Proof/Machine/HostOps.lean ====
section
/-! DEFINITION. The host's operations on the core between steps (60_exceptions R615): loadRom, setFirstBankIndex, Init,
writeDirect, memory.read and the dump. None of them is an instruction, and no step takes one. -/

namespace Sys2Proof.Machine

/-- A host operation that may change state (R615). -/
inductive HostAction where
  | loadRom (bytes : List Byte)
  | setFirstBankIndex (index : Int)
  | init
  | writeDirect (a : Addr) (v : Byte)
  deriving DecidableEq, Repr

/-- What a host operation answers: done, or refused with nothing changed. -/
inductive HostResult where
  | done (s : State)
  | refused
  deriving DecidableEq, Repr

/-- `Init()` (R701): PC and SP, and nothing else (D25). -/
def State.init (s : State) : State := { s with pc := 0x0100#16, sp := 0xFFFE#16 }

/-- `loadRom(bytes)` (R46, D33), enabled at launch, before the first step: no step has completed (CLK = 0) and none has
failed (notes/assumptions/11.md). -/
def State.loadRom (s : State) (bytes : List Byte) : HostResult :=
  if s.clk = 0 ∧ s.fault = none then .done { s with launch := { s.launch with rom := bytes } } else .refused

/-- `setFirstBankIndex(index)` (R45, D18): a negative index is refused; there is no upper bound. -/
def State.setFirstBankIndex (s : State) (index : Int) : HostResult :=
  if index < 0 then .refused else .done { s with bank := index.toNat }

/-- `writeDirect(a, v)` (R74, D19): routed like a CPU write, but 0xFF44 stores v; refused in the ROM window with a
cartridge present. -/
def State.writeDirect (s : State) (a : Addr) (v : Byte) : HostResult :=
  match s.route a with
  | .cart => .refused
  | .ram i => .done (s.setRam i v)

def hostAct (act : HostAction) (s : State) : HostResult :=
  match act with
  | .loadRom bytes => s.loadRom bytes
  | .setFirstBankIndex index => s.setFirstBankIndex index
  | .init => .done s.init
  | .writeDirect a v => s.writeDirect a v

/-- HOST_STEPS, its default (R8, R615): `writeDirect(0xFF44, v)` for every byte v. -/
def hostStepsDefault (act : HostAction) : Bool :=
  match act with
  | .loadRom _ => false
  | .setFirstBankIndex _ => false
  | .init => false
  | .writeDirect a _ => a == 0xFF44#16

/-- `memory.read(a)` (R52, R615): the bus read. -/
def State.memoryRead (s : State) (a : Addr) : Byte := s.busRead a

/-- The dump (R52, R615): a read-only snapshot. -/
structure Dump where
  a : Byte
  f : Byte
  b : Byte
  c : Byte
  d : Byte
  e : Byte
  h : Byte
  l : Byte
  sp : Addr
  pc : Addr
  zf : Bool
  nf : Bool
  hf : Bool
  cf : Bool
  ime : Bool
  clk : Nat
  deriving DecidableEq, Repr

def State.dump (s : State) : Dump where
  a := s.a
  f := s.f
  b := s.b
  c := s.c
  d := s.d
  e := s.e
  h := s.h
  l := s.l
  sp := s.sp
  pc := s.pc
  zf := s.zf
  nf := s.nf
  hf := s.hf
  cf := s.cf
  ime := s.ime
  clk := s.clk

end Sys2Proof.Machine
end

