-- ==== Sys2Proof/Machine/Session.lean ====
section
/-! DEFINITION. Runs: a schedule of steps and host actions (60_exceptions R615, 70_reset_and_hazards R710), and
runToAddress (R711). The host's choices are an argument, so a statement over all schedules holds for every value the
host may store at 0xFF44 (U15). -/

namespace Sys2Proof.Machine

/-- What happens at one point of a run. -/
inductive Event where
  | step
  | host (act : HostAction)
  deriving DecidableEq, Repr

/-- A step as an event: where no step is enabled, nothing changes (R605). -/
def State.stepEvent (s : State) : State :=
  match step s with
  | .next t => t
  | .fault _ => s
  | .refused _ => s

/-- A host action as an event: one outside HOST_STEPS does not happen, and a refused one changes nothing (R615). -/
def State.hostEvent (hostSteps : HostAction → Bool) (s : State) (act : HostAction) : State :=
  if hostSteps act then
    match hostAct act s with
    | .done t => t
    | .refused => s
  else s

/-- The state after a schedule, under the set HOST_STEPS of admitted host actions. -/
def runSession (hostSteps : HostAction → Bool) : List Event → State → State
  | [], s => s
  | .step :: rest, s => runSession hostSteps rest s.stepEvent
  | .host act :: rest, s => runSession hostSteps rest (s.hostEvent hostSteps act)

/-- How `runToAddress` ends (R710, R711). -/
inductive RunEnd where
  | reached (s : State)
  | budget (s : State)
  | faulted (r : FaultRecord) (s : State)
  /-- The schedule given is used up before any of the three endings. -/
  | unfinished (s : State)
  deriving DecidableEq, Repr

/-- The host actions of one step boundary. -/
def applyHostSteps (hostSteps : HostAction → Bool) : List HostAction → State → State
  | [], s => s
  | act :: rest, s => applyHostSteps hostSteps rest (s.hostEvent hostSteps act)

/-- Whether a given budget is used up (R711). -/
def budgetSpent (budget : Option Nat) (clk : Nat) : Bool :=
  match budget with
  | some b => decide (b ≤ clk)
  | none => false

/-- `runToAddress(t, B)` (R711): the loop's checks, then the host's actions at this boundary, then a step. The schedule
holds the host's actions of each turn of the loop, and bounds the turns (notes/assumptions/12.md). -/
def runToAddress (hostSteps : HostAction → Bool) (target : Addr) (budget : Option Nat) :
    List (List HostAction) → State → RunEnd
  | [], s =>
    match s.fault with
    | some r => .faulted r s
    | none => if s.pc = target then .reached s else if budgetSpent budget s.clk then .budget s else .unfinished s
  | acts :: rest, s =>
    match s.fault with
    | some r => .faulted r s
    | none =>
      if s.pc = target then .reached s
      else if budgetSpent budget s.clk then .budget s
      else runToAddress hostSteps target budget rest (applyHostSteps hostSteps acts s).stepEvent

end Sys2Proof.Machine
end

