-- ==== Sys2Proof/Safety.lean ====
section
/-! DEFINITION. What the statements are said in: the state invariant, when a store raises RomWrite, and the groups of
instructions the spec's lists name. -/

namespace Sys2Proof

open Machine

/-- The state invariant: bits 3..0 of F are 0 (10_state R35) and RAM is in its canonical form. -/
abbrev Inv (s : State) : Prop := s.f &&& 0x0F#8 = 0#8 ∧ s.ram.wf

/-- A step is enabled (60_exceptions R605). -/
abbrev Enabled (s : State) : Prop := s.fault = none

/-- A write to `a` raises RomWrite (60_exceptions R602): the ROM window, a cartridge present, policy fault. -/
abbrev RomFaults (s : State) (a : Addr) : Prop :=
  a < 0x8000#16 ∧ s.launch.cartPresent = true ∧ s.launch.romWritePolicy = .fault

/-- A write to `a` lands in the ROM window and is dropped (20_memory R73): policy ignore. -/
abbrev RomIgnores (s : State) (a : Addr) : Prop :=
  a < 0x8000#16 ∧ s.launch.cartPresent = true ∧ s.launch.romWritePolicy = .ignore

/-- What a bus read of `a` gives after `v` was stored at `a` by a write that raised nothing (20_memory R73): 0 at
0xFF44, the old byte where the write was dropped, else v. -/
def storedByte (s : State) (a : Addr) (v : Byte) : Byte :=
  if RomIgnores s a then s.busRead a else if a = 0xFF44#16 then 0x00#8 else v

/-! ## What a step leaves unchanged -/

/-- Every general register outside `dests` is unchanged. -/
abbrev KeepsRegs (s t : State) (dests : List Reg8) : Prop := ∀ r : Reg8, r ∉ dests → t.getReg r = s.getReg r

/-- IME, BANK, FAULT and the launch parameters (ROM among them) are unchanged. -/
abbrev KeepsSystem (s t : State) : Prop :=
  t.ime = s.ime ∧ t.bank = s.bank ∧ t.fault = s.fault ∧ t.launch = s.launch

/-- Every byte of RAM, and every byte a bus read gives, is unchanged. -/
abbrev KeepsMemory (s t : State) : Prop := t.ram = s.ram ∧ ∀ x : Addr, t.busRead x = s.busRead x

/-- Every byte of memory outside the bytes stored at the addresses `stored` is unchanged: every bus read that is routed
to the cartridge or to no RAM byte that a stored address is routed to (so the echo alias of a stored byte counts as
that byte, 20_memory R83), and every RAM byte that no stored address is routed to. -/
abbrev StoresOnly (s t : State) (stored : List Addr) : Prop :=
  (∀ x : Addr, (s.route x = .cart ∨ ∀ a ∈ stored, s.route x ≠ s.route a) → t.busRead x = s.busRead x) ∧
  ∀ j : Addr, (∀ a ∈ stored, s.route a ≠ .ram j) → ramRead t.ram j.toNat = ramRead s.ram j.toNat

/-- The four flags of F, and bits 3..0 of F, which are 0 (10_state R35). -/
abbrev FlagsAre (t : State) (z n h c : Bool) : Prop :=
  t.f.getLsbD 7 = z ∧ t.f.getLsbD 6 = n ∧ t.f.getLsbD 5 = h ∧ t.f.getLsbD 4 = c ∧ t.f &&& 0x0F#8 = 0#8

/-- CLK grows by the row of CYCLE_TABLE, which is `n` in the table of 70_reset_and_hazards R708. -/
abbrev Costs (s t : State) (row : CycleTable → Nat) (n : Nat) : Prop :=
  t.clk = s.clk + row s.launch.cycleTable ∧ (s.launch.cycleTable = cycleTableR708 → t.clk = s.clk + n)

/-- The registers of a pair (10_state R37, R39). -/
def pairRegs : RegPair → List Reg8
  | .bc => [.b, .c]
  | .de => [.d, .e]
  | .hl => [.h, .l]
  | .sp => []

/-- Whether a condition holds of the F byte (43_control R450): bit 7 is Z, bit 4 is C. -/
def conditionHolds (f : Byte) : Cond → Bool
  | .nz => !f.getLsbD 7
  | .z => f.getLsbD 7
  | .nc => !f.getLsbD 4
  | .c => f.getLsbD 4

/-! ## The second operand of an ALU instruction (41_alu R309) -/

/-- A register, the byte at HL, or an immediate byte. -/
inductive Second where
  | reg (r : Reg8)
  | atHL
  | imm (n : Byte)
  deriving DecidableEq, Repr

/-- The operand's value. -/
def Second.value (s : State) : Second → Byte
  | .reg r => s.getReg r
  | .atHL => s.busRead s.hl
  | .imm n => n

/-- The instruction's length in bytes. -/
def Second.length : Second → Addr
  | .reg _ => 1#16
  | .atHL => 1#16
  | .imm _ => 2#16

/-- The bytes of the ALU operation of field `y` with this operand (30_encoding R129, R133). -/
def Second.bytes (y : BitVec 3) : Second → List Byte
  | .reg r => [0b10#2 ++ y ++ r.code]
  | .atHL => [0b10#2 ++ y ++ 0b110#3]
  | .imm n => [0b11#2 ++ y ++ 0b110#3, n]

/-- The row of CYCLE_TABLE. -/
def Second.row : Second → CycleTable → Nat
  | .reg _ => CycleTable.aluR
  | .atHL => CycleTable.aluHL
  | .imm _ => CycleTable.aluN

/-- The cost in R708. -/
def Second.cost : Second → Nat
  | .reg _ => 4
  | .atHL => 8
  | .imm _ => 8

/-- ADD with each second operand. -/
def addForm : Second → Instr
  | .reg r => .addR r
  | .atHL => .addHL
  | .imm n => .addN n

/-- ADC with each second operand. -/
def adcForm : Second → Instr
  | .reg r => .adcR r
  | .atHL => .adcHL
  | .imm n => .adcN n

/-- SUB with each second operand. -/
def subForm : Second → Instr
  | .reg r => .subR r
  | .atHL => .subHL
  | .imm n => .subN n

/-- SBC with each second operand. -/
def sbcForm : Second → Instr
  | .reg r => .sbcR r
  | .atHL => .sbcHL
  | .imm n => .sbcN n

/-- AND with each second operand. -/
def andForm : Second → Instr
  | .reg r => .andR r
  | .atHL => .andHL
  | .imm n => .andN n

/-- XOR with each second operand. -/
def xorForm : Second → Instr
  | .reg r => .xorR r
  | .atHL => .xorHL
  | .imm n => .xorN n

/-- OR with each second operand. -/
def orForm : Second → Instr
  | .reg r => .orR r
  | .atHL => .orHL
  | .imm n => .orN n

/-- CP with each second operand. -/
def cpForm : Second → Instr
  | .reg r => .cpR r
  | .atHL => .cpHL
  | .imm n => .cpN n

/-- The end and the frame of an ALU instruction: A and the flags apart, nothing but PC and CLK changes. -/
abbrev AluFrame (s t : State) (x : Second) : Prop :=
  t.pc = s.pc + x.length ∧ Costs s t x.row x.cost ∧ t.sp = s.sp ∧ KeepsRegs s t [.a] ∧ KeepsSystem s t ∧
    KeepsMemory s t

/-- The end and the frame of an instruction that changes no register, flag or memory: PC, CLK apart. -/
abbrev OnlyPcClk (s t : State) : Prop :=
  t.f = s.f ∧ t.sp = s.sp ∧ KeepsRegs s t [] ∧ KeepsSystem s t ∧ KeepsMemory s t

/-- What stands after an instruction that pushed `v` (42_stack_calls R400): SP two lower, the low byte at the new SP,
the high byte above it, each as a bus write stores it; everything else but PC and CLK unchanged. -/
abbrev Pushed (s t : State) (v : Addr) : Prop :=
  t.sp = s.sp - 2#16 ∧
  t.busRead (s.sp - 2#16) = storedByte s (s.sp - 2#16) (loByte v) ∧
  t.busRead (s.sp - 1#16) = storedByte s (s.sp - 1#16) (hiByte v) ∧
  StoresOnly s t [s.sp - 2#16, s.sp - 1#16] ∧ t.f = s.f ∧ KeepsRegs s t [] ∧ KeepsSystem s t

/-- Neither byte of a push raises RomWrite (42_stack_calls R402). -/
abbrev PushAllowed (s : State) : Prop := ¬RomFaults s (s.sp - 2#16) ∧ ¬RomFaults s (s.sp - 1#16)

/-! ## The spec's lists of instructions -/

/-- The opcode bytes that always raise UnimplementedOpcode (30_encoding R135). -/
def faultingBytes : List Byte :=
  [0x02#8, 0x07#8, 0x08#8, 0x09#8, 0x0A#8, 0x0F#8, 0x10#8, 0x12#8, 0x17#8, 0x19#8, 0x1A#8, 0x1F#8, 0x22#8, 0x27#8, 0x29#8,
   0x2A#8, 0x2F#8, 0x32#8, 0x37#8, 0x39#8, 0x3A#8, 0x3F#8, 0x76#8, 0xCB#8, 0xD3#8, 0xD9#8, 0xDB#8, 0xDD#8, 0xE0#8, 0xE2#8,
   0xE3#8, 0xE4#8, 0xE8#8, 0xE9#8, 0xEA#8, 0xEB#8, 0xEC#8, 0xED#8, 0xF0#8, 0xF2#8, 0xF4#8, 0xF9#8, 0xFA#8, 0xFC#8, 0xFD#8]

/-- The optional opcode bytes with the flag that admits each (30_encoding R134). -/
def optionalBytes (launch : Launch) : List (Byte × Bool) :=
  [(0x00#8, launch.admitNop), (0x18#8, launch.admitJr),
   (0xC2#8, launch.admitJpCc), (0xCA#8, launch.admitJpCc), (0xD2#8, launch.admitJpCc), (0xDA#8, launch.admitJpCc),
   (0xC4#8, launch.admitCallCc), (0xCC#8, launch.admitCallCc), (0xD4#8, launch.admitCallCc), (0xDC#8, launch.admitCallCc)]

/-- The launch admits the opcode (30_encoding R133, R134). -/
abbrev Admitted (launch : Launch) (op : Byte) : Prop :=
  op ∉ faultingBytes ∧ ∀ p ∈ optionalBytes launch, p.1 = op → p.2 = true

/-- The constructors of the 45 faulting rows. -/
def faultingInstrs : List Instr :=
  [.unimpl02, .unimpl07, .unimpl08, .unimpl09, .unimpl0A, .unimpl0F, .unimpl10, .unimpl12, .unimpl17, .unimpl19,
   .unimpl1A, .unimpl1F, .unimpl22, .unimpl27, .unimpl29, .unimpl2A, .unimpl2F, .unimpl32, .unimpl37, .unimpl39,
   .unimpl3A, .unimpl3F, .unimpl76, .unimplCB, .unimplD3, .unimplD9, .unimplDB, .unimplDD, .unimplE0, .unimplE2,
   .unimplE3, .unimplE4, .unimplE8, .unimplE9, .unimplEA, .unimplEB, .unimplEC, .unimplED, .unimplF0, .unimplF2,
   .unimplF4, .unimplF9, .unimplFA, .unimplFC, .unimplFD]

/-- The instructions that store at HL (60_exceptions R602). -/
def storesAtHL : Instr → Bool
  | .ldHLN _ | .ldHLR _ | .incHL | .decHL => true
  | _ => false

/-- The instructions that push in state `s` (60_exceptions R602): PUSH, CALL, RST, and CALL cc when admitted and
taken. -/
def pushes (s : State) : Instr → Bool
  | .push _ | .call _ | .rst _ => true
  | .callCc cc _ => s.launch.admitCallCc && conditionHolds s.f cc
  | _ => false

/-- The instructions that redirect control in state `s` (10_state R42, 43_control): a conditional one where its
condition holds. -/
def redirects (s : State) : Instr → Bool
  | .jp _ | .call _ | .rst _ | .ret | .jrE _ => true
  | .jrCc cc _ | .retCc cc | .jpCc cc _ | .callCc cc _ => conditionHolds s.f cc
  | _ => false

/-- The instructions that write SP in state `s` (10_state R41). -/
def writesSp (s : State) : Instr → Bool
  | .ldRpNN .sp _ | .incRp .sp | .decRp .sp | .push _ | .pop _ | .call _ | .rst _ | .ret => true
  | .retCc cc => conditionHolds s.f cc
  | .callCc cc _ => conditionHolds s.f cc
  | _ => false

/-- The instructions that write F (10_state R35): the ALU, 8-bit INC and DEC, LD HL,SP+e, POP AF. -/
def writesF : Instr → Bool
  | .addR _ | .addHL | .addN _ | .adcR _ | .adcHL | .adcN _ | .subR _ | .subHL | .subN _ | .sbcR _ | .sbcHL | .sbcN _ => true
  | .andR _ | .andHL | .andN _ | .xorR _ | .xorHL | .xorN _ | .orR _ | .orHL | .orN _ | .cpR _ | .cpHL | .cpN _ => true
  | .incR _ | .incHL | .decR _ | .decHL | .ldHLSPe _ | .pop .af => true
  | _ => false

/-- The row of CYCLE_TABLE an instruction costs in state `s` (70_reset_and_hazards R708). -/
def costRow (s : State) : Instr → CycleTable → Nat
  | .ldRN _ _ => CycleTable.ldRN
  | .ldHLN _ => CycleTable.ldHLN
  | .ldRR _ _ => CycleTable.ldRR
  | .ldRHL _ => CycleTable.ldRHL
  | .ldHLR _ => CycleTable.ldHLR
  | .ldRpNN _ _ => CycleTable.ldRpNN
  | .addR _ | .adcR _ | .subR _ | .sbcR _ | .andR _ | .xorR _ | .orR _ | .cpR _ => CycleTable.aluR
  | .addHL | .adcHL | .subHL | .sbcHL | .andHL | .xorHL | .orHL | .cpHL => CycleTable.aluHL
  | .addN _ | .adcN _ | .subN _ | .sbcN _ | .andN _ | .xorN _ | .orN _ | .cpN _ => CycleTable.aluN
  | .incR _ | .decR _ => CycleTable.incDecR
  | .incHL | .decHL => CycleTable.incDecHL
  | .incRp _ | .decRp _ => CycleTable.incDecRp
  | .ldHLSPe _ => CycleTable.ldHLSPe
  | .push _ => CycleTable.push
  | .pop _ => CycleTable.pop
  | .call _ => CycleTable.call
  | .rst _ => CycleTable.rst
  | .ret => CycleTable.ret
  | .jp _ => CycleTable.jp
  | .jrCc cc _ => if conditionHolds s.f cc then CycleTable.jrCcTaken else CycleTable.jrCcNotTaken
  | .retCc cc => if conditionHolds s.f cc then CycleTable.retCcTaken else CycleTable.retCcNotTaken
  | .ei | .di => CycleTable.eiDi
  | .nop => CycleTable.nop
  | .jrE _ => CycleTable.jrE
  | .jpCc cc _ => if conditionHolds s.f cc then CycleTable.jpCcTaken else CycleTable.jpCcNotTaken
  | .callCc cc _ => if conditionHolds s.f cc then CycleTable.callCcTaken else CycleTable.callCcNotTaken
  | _ => fun _ => 0 -- a faulting opcode costs nothing (R604)

end Sys2Proof
end

