-- ==== Sys2Proof/Certificates/Slice0/Obligations.lean ====
section
/-! DEFINITION. The statements for the provers, from the numbered rules of spec/. Each docstring names the rule. The
statements are about `exec` and `step` on every state, so for every launch parameter, bank index and memory. -/

open Sys2Proof Sys2Proof.Machine

/-! ## Encoding -/

/-- Decoding the bytes of a well-formed instruction gives it back, with whatever follows it (R122, R133, R134, R135). -/
def Obligations.DecodeOfEncodeIsTheInstruction : Prop :=
  ∀ (i : Instr) (rest : List Byte), i.wellFormed = true → decode (encode i ++ rest) = .ok (i, rest)

/-- Every three bytes decode to a well-formed instruction whose bytes are the ones read: no encoding is reserved, and
no two instructions share one (R131, R138). -/
def Obligations.EncodeOfDecodeIsTheBytesRead : Prop :=
  ∀ op lo hi : Byte, (decodeOp op lo hi).wellFormed = true ∧
    encode (decodeOp op lo hi) = [op, lo, hi].take (instrLength op)

/-- R120: the length is 1, 2 or 3, determined by the opcode byte alone; and at an opcode the launch admits, a fetch
reads the opcode and then exactly the operand bytes, at pc+1 and pc+2. (What is fetched at an opcode that faults is
AdmissionDecidesUnimplemented's.) -/
def Obligations.OpcodeByteAloneDeterminesLength : Prop :=
  ∀ (s : State) (lo hi : Byte),
    let op := s.busRead s.pc
    1 ≤ instrLength op ∧ instrLength op ≤ 3 ∧ (decodeOp op lo hi).length = instrLength op ∧
    (Admitted s.launch op →
      s.fetchBytes = [op, s.busRead (s.pc + 1#16), s.busRead (s.pc + 2#16)].take (instrLength op))

/-- The codes of the operand fields (R33, R39, R40, R128), and one word of each instruction of R133 and R134 and of 0x76
(R135), as the spec writes its encoding. The optional ones decode to their instruction whatever the launch admits (log
entry 9). -/
def Obligations.TableWordsDecode : Prop :=
  [Reg8.b, .c, .d, .e, .h, .l, .a].map Reg8.code = [0b000#3, 0b001#3, 0b010#3, 0b011#3, 0b100#3, 0b101#3, 0b111#3] ∧
  [RegPair.bc, .de, .hl, .sp].map RegPair.code = [0b00#2, 0b01#2, 0b10#2, 0b11#2] ∧
  [StackPair.bc, .de, .hl, .af].map StackPair.code = [0b00#2, 0b01#2, 0b10#2, 0b11#2] ∧
  [Cond.nz, .z, .nc, .c].map Cond.code = [0b00#2, 0b01#2, 0b10#2, 0b11#2] ∧
  ∀ row ∈
    ([(16, 0x423E, .ldRN .a 0x42#8), (16, 0x9936, .ldHLN 0x99#8), (8, 0x78, .ldRR .a .b), (8, 0x66, .ldRHL .h),
      (8, 0x74, .ldHLR .h), (24, 0x123421, .ldRpNN .hl 0x1234#16), (8, 0x83, .addR .e), (8, 0x86, .addHL),
      (16, 0x5AC6, .addN 0x5A#8), (8, 0x8B, .adcR .e), (8, 0x8E, .adcHL), (16, 0x5ACE, .adcN 0x5A#8),
      (8, 0x93, .subR .e), (8, 0x96, .subHL), (16, 0x5AD6, .subN 0x5A#8), (8, 0x9B, .sbcR .e), (8, 0x9E, .sbcHL),
      (16, 0x5ADE, .sbcN 0x5A#8), (8, 0xA3, .andR .e), (8, 0xA6, .andHL), (16, 0x5AE6, .andN 0x5A#8),
      (8, 0xAB, .xorR .e), (8, 0xAE, .xorHL), (16, 0x5AEE, .xorN 0x5A#8), (8, 0xB3, .orR .e), (8, 0xB6, .orHL),
      (16, 0x5AF6, .orN 0x5A#8), (8, 0xBB, .cpR .e), (8, 0xBE, .cpHL), (16, 0x5AFE, .cpN 0x5A#8),
      (8, 0x3C, .incR .a), (8, 0x34, .incHL), (8, 0x0D, .decR .c), (8, 0x35, .decHL), (8, 0x33, .incRp .sp),
      (8, 0x1B, .decRp .de), (16, 0xF1F8, .ldHLSPe 0xF1#8), (8, 0xC5, .push .bc), (8, 0xF1, .pop .af),
      (24, 0x0300CD, .call 0x0300#16), (8, 0xEF, .rst 0x28#8), (8, 0xC9, .ret), (24, 0x0150C3, .jp 0x0150#16),
      (16, 0xFE30, .jrCc .nc 0xFE#8), (8, 0xD8, .retCc .c), (8, 0xFB, .ei), (8, 0xF3, .di), (8, 0x00, .nop),
      (16, 0x1018, .jrE 0x10#8), (24, 0x4000CA, .jpCc .z 0x4000#16), (24, 0x0500D4, .callCc .nc 0x0500#16),
      (8, 0x76, .unimpl76)] : List (Nat × Nat × Instr)),
    decodeTableWord row.1 row.2.1 = some row.2.2

/-! ## The step -/

/-- R141: where a step is enabled and the bytes at PC decode to an instruction, the step is that instruction's `exec`
on the same state: nothing stands around it. -/
def Obligations.StepRunsTheDecodedInstruction : Prop :=
  ∀ (s : State) (i : Instr) (rest : List Byte), Enabled s →
    decode [s.busRead s.pc, s.busRead (s.pc + 1#16), s.busRead (s.pc + 2#16)] = .ok (i, rest) →
    step s = exec i s ∧ i.wellFormed = true

/-- Every enabled step runs to a next state, on every byte sequence and in every state (R141, R603). -/
def Obligations.EnabledStepAlwaysGivesANextState : Prop := ∀ s : State, Enabled s → ∃ t, step s = .next t

/-- R605: with FAULT set no step is enabled, and nothing clears FAULT: not a step, not Init, not a host operation, not
any schedule of them. -/
def Obligations.FaultIsTerminal : Prop :=
  ∀ (s : State) (r : FaultRecord), s.fault = some r →
    step s = .fault (.sessionFailed r) ∧ s.stepEvent = s ∧
    (∀ act t, hostAct act s = .done t → t.fault = some r) ∧
    ∀ (hostSteps : HostAction → Bool) (events : List Event), (runSession hostSteps events s).fault = some r

/-- R604: a step that fails changes FAULT and nothing else. The record is that of the opcode at PC or of a write into
the ROM window, with the address of the opcode. -/
def Obligations.FaultingStepChangesOnlyFault : Prop :=
  ∀ (s t : State), Enabled s → step s = .next t → t.fault ≠ none →
    ∃ r, t = { s with fault := some r } ∧
      (r = .unimplementedOpcode (s.busRead s.pc) s.pc ∨ ∃ a, RomFaults s a ∧ r = .romWrite a s.pc)

/-- R44: a completed step adds its instruction's row of CYCLE_TABLE to CLK, at least 4 in the table of R708; a faulting
step does not change CLK. -/
def Obligations.CompletedStepAddsItsCost : Prop :=
  ∀ (s t : State), Enabled s → step s = .next t →
    (t.fault = none → t.clk = s.clk + costRow s s.fetchInstr s.launch.cycleTable ∧
      (s.launch.cycleTable = cycleTableR708 → s.clk + 4 ≤ t.clk)) ∧
    (t.fault ≠ none → t.clk = s.clk)

/-- R42: an instruction that does not redirect control, or whose condition does not hold, ends at pc + its length. -/
def Obligations.PcAdvancesByTheLength : Prop :=
  ∀ (s t : State), Enabled s → step s = .next t → t.fault = none → redirects s s.fetchInstr = false →
    t.pc = s.pc + BitVec.ofNat 16 (instrLength (s.busRead s.pc))

/-- R135, R136: each of the 45 bytes raises UnimplementedOpcode with itself and its address; no operand byte is
fetched; nothing but FAULT changes. -/
def Obligations.FaultingBytesRaiseUnimplemented : Prop :=
  faultingBytes.length = 45 ∧
  ∀ s : State, Enabled s → s.busRead s.pc ∈ faultingBytes →
    s.fetchBytes = [s.busRead s.pc] ∧
    step s = .next { s with fault := some (.unimplementedOpcode (s.busRead s.pc) s.pc) }

/-- R133, R134, R504, R601: at an opcode the launch does not admit (one of the 45, or an optional one whose flag is
false) no operand byte is fetched, and the step raises UnimplementedOpcode with the byte and its address and changes
nothing but FAULT; at an admitted one it never does: the step completes, or raises RomWrite. -/
def Obligations.AdmissionDecidesUnimplemented : Prop :=
  ∀ s : State, Enabled s →
    (¬Admitted s.launch (s.busRead s.pc) → s.fetchBytes = [s.busRead s.pc] ∧
      step s = .next { s with fault := some (.unimplementedOpcode (s.busRead s.pc) s.pc) }) ∧
    (Admitted s.launch (s.busRead s.pc) →
      ∃ t, step s = .next t ∧ (t.fault = none ∨ ∃ a, RomFaults s a ∧ t.fault = some (.romWrite a s.pc)))

/-- The 45 faulting rows as instructions: each takes its fault, with the opcode byte of its own encoding (R503, R504,
R601). -/
def Obligations.FaultingRowsTakeTheirFault : Prop :=
  ∀ i ∈ faultingInstrs, ∀ s : State, ∃ op : Byte, encode i = [op] ∧ op ∈ faultingBytes ∧
    exec i s = .next { s with fault := some (.unimplementedOpcode op s.pc) }

/-! ## Rules of the whole machine -/

/-- The invariant at power-on, for every launch whose RAM0 is in canonical form, and at reset (R51, R35). -/
def Obligations.PowerOnMeetsTheInvariant : Prop :=
  (∀ launch reg0 ime0 ram0, Memory.wf ram0 → Inv (State.powerOn launch reg0 ime0 ram0)) ∧ Inv State.reset

/-- Every step keeps F's bits 3..0 at 0 and RAM in canonical form, from every state that meets it (R35, R36). -/
def Obligations.StepKeepsTheInvariant : Prop := ∀ s t : State, Inv s → step s = .next t → Inv t

/-- So does every run: any schedule of steps and host actions, under any HOST_STEPS (R35, R615). -/
def Obligations.EveryRunKeepsTheInvariant : Prop :=
  ∀ (hostSteps : HostAction → Bool) (events : List Event) (s : State), Inv s → Inv (runSession hostSteps events s)

/-- R45, R46, R47: no step writes BANK, the ROM or any other launch parameter; and no run under the default HOST_STEPS
does. -/
def Obligations.BankAndRomAreFixed : Prop :=
  (∀ s t : State, step s = .next t → t.bank = s.bank ∧ t.launch = s.launch) ∧
  ∀ (events : List Event) (s : State),
    (runSession hostStepsDefault events s).bank = s.bank ∧ (runSession hostStepsDefault events s).launch = s.launch

/-- CLK is monotonic over every run, under any HOST_STEPS: no host operation writes it (R44, R611). -/
def Obligations.ClockNeverDecreases : Prop :=
  ∀ (hostSteps : HostAction → Bool) (events : List Event) (s : State), s.clk ≤ (runSession hostSteps events s).clk

/-- IME is written by EI and DI alone, and read by nothing: two states that differ in IME alone take the same step (R43,
R505). -/
def Obligations.ImeHasNoEffect : Prop :=
  (∀ s t : State, step s = .next t → s.fetchInstr ≠ .ei → s.fetchInstr ≠ .di → t.ime = s.ime) ∧
  ∀ (s t : State) (b : Bool), step s = .next t → ∃ c : Bool, step { s with ime := b } = .next { t with ime := c }

/-- No instruction reads CLK: from another CLK the same step is taken, and the same number of cycles added (R44,
R707). -/
def Obligations.ClockIsNotRead : Prop :=
  ∀ (s t : State) (n : Nat), step s = .next t →
    s.clk ≤ t.clk ∧ step { s with clk := n } = .next { t with clk := n + (t.clk - s.clk) }

/-- SP is written by the instructions R41 lists (CALL cc where its condition holds, R456) and by RET cc where its
condition holds (R453), and by no other. -/
def Obligations.SpWritersAreTheListed : Prop :=
  ∀ s t : State, step s = .next t → writesSp s s.fetchInstr = false → t.sp = s.sp

/-- F is written by the ALU, 8-bit INC and DEC, LD HL,SP+e and POP AF, and by no other instruction (R35, R40, R340). -/
def Obligations.FlagWritersAreTheListed : Prop :=
  ∀ s t : State, step s = .next t → writesF s.fetchInstr = false → t.f = s.f

/-- RAM is written by the instructions that store at HL and those that push, and by no other (R602's list, R80). -/
def Obligations.MemoryWritersAreTheListed : Prop :=
  ∀ s t : State, step s = .next t → storesAtHL s.fetchInstr = false → pushes s s.fetchInstr = false → KeepsMemory s t

/-- R90, R706: a step leaves the scanline byte 0xFF44 as it is, or stores 0 there. -/
def Obligations.ScanlineByteIsKeptOrCleared : Prop :=
  ∀ s t : State, step s = .next t →
    t.busRead 0xFF44#16 = s.busRead 0xFF44#16 ∨ t.busRead 0xFF44#16 = 0x00#8

/-- The cartridge window cannot be written by the CPU: with a cartridge, every byte below 0x8000 reads the same after
any step (R705, R73). -/
def Obligations.CartridgeWindowIsReadOnly : Prop :=
  ∀ (s t : State) (a : Addr), s.launch.cartPresent = true → a < 0x8000#16 → step s = .next t →
    t.busRead a = s.busRead a

/-! ## Memory -/

/-- R72: a cartridge read is the ROM byte at its offset, computed on integers, and 0xFF outside the image; BANK selects
the upper window alone. -/
def Obligations.CartridgeReadIsTheBankedByte : Prop :=
  ∀ (s : State) (a : Addr), s.launch.cartPresent = true →
    (a.toNat < 0x4000 → s.busRead a = (s.launch.rom[a.toNat]?).getD 0xFF#8) ∧
    (0x4000 ≤ a.toNat → a.toNat < 0x8000 →
      (∀ off : Nat, (off : Int) = ((s.bank : Int) - (if s.launch.bankBaseAdjust = .one then 1 else 0)) * 0x4000 +
          ((a.toNat : Int) - 0x4000) → s.busRead a = (s.launch.rom[off]?).getD 0xFF#8) ∧
      (((s.bank : Int) - (if s.launch.bankBaseAdjust = .one then 1 else 0)) * 0x4000 +
          ((a.toNat : Int) - 0x4000) < 0 → s.busRead a = 0xFF#8))

/-- R71: outside the cartridge window a read is the RAM byte, the echo range folded onto 0xC000-0xDDFF. -/
def Obligations.RamReadFoldsTheEcho : Prop :=
  ∀ (s : State) (a : Addr), ¬(a.toNat < 0x8000 ∧ s.launch.cartPresent = true) →
    s.busRead a = ramRead s.ram (if 0xE000 ≤ a.toNat ∧ a.toNat ≤ 0xFDFF then a.toNat - 0x2000 else a.toNat)

/-- R73: a byte write raises RomWrite with its address exactly in the ROM window under policy fault; else it stores its
byte, 0 at 0xFF44, nothing in the ROM window, and leaves every other byte and every register alone. -/
def Obligations.ByteWriteStoresAsTheBusSays : Prop :=
  ∀ (s : State) (a : Addr) (v : Byte),
    (RomFaults s a → s.busWrite a v = .error a) ∧
    (¬RomFaults s a → ∃ t, s.busWrite a v = .ok t ∧ t.busRead a = storedByte s a v ∧ StoresOnly s t [a] ∧
      t = { s with ram := t.ram })

/-- R83: a write into the echo range is seen at its alias in 0xC000-0xDDFF, a write there at its alias in the echo
range, and no write at any address is seen at any other: a write outside the two ranges is seen at its own address alone. -/
def Obligations.EchoRangeAliases : Prop :=
  ∀ (s t : State) (a : Addr) (v : Byte), s.busWrite a v = .ok t →
    (0xE000#16 ≤ a → a ≤ 0xFDFF#16 → t.busRead (a - 0x2000#16) = v ∧
      ∀ x, x ≠ a → x ≠ a - 0x2000#16 → t.busRead x = s.busRead x) ∧
    (0xC000#16 ≤ a → a ≤ 0xDDFF#16 → t.busRead (a + 0x2000#16) = v ∧
      ∀ x, x ≠ a → x ≠ a + 0x2000#16 → t.busRead x = s.busRead x) ∧
    (¬(0xE000#16 ≤ a ∧ a ≤ 0xFDFF#16) → ¬(0xC000#16 ≤ a ∧ a ≤ 0xDDFF#16) →
      ∀ x, x ≠ a → t.busRead x = s.busRead x)

/-- R75, R76: a word is little-endian, each byte routed on its own, the address above 0xFFFF being 0x0000; a word
written where both bytes are plain RAM reads back. -/
def Obligations.WordsAreLittleEndian : Prop :=
  (∀ (s : State) (a : Addr),
    (s.busReadWord a).toNat = (s.busRead a).toNat + 256 * (s.busRead (a + 1#16)).toNat) ∧
  ∀ (s t : State) (a v : Addr), s.busWriteWord a v = .ok t → s.route a ≠ .cart → s.route (a + 1#16) ≠ .cart →
    a ≠ 0xFF44#16 → a + 1#16 ≠ 0xFF44#16 →
    (t.busRead a).toNat = v.toNat % 256 ∧ (t.busRead (a + 1#16)).toNat = v.toNat / 256 ∧ t.busReadWord a = v

/-- R88, R705: a store is seen by the next fetch: LD (HL),r onto the byte after itself is followed by a fetch of the
byte it stored, and by that byte's instruction where the launch admits it. -/
def Obligations.StoreIsSeenByTheNextFetch : Prop :=
  ∀ (s : State) (src : Reg8), Enabled s → s.fetchInstr = .ldHLR src → s.hl = s.pc + 1#16 → s.route s.hl ≠ .cart →
    s.hl ≠ 0xFF44#16 →
    ∃ t, step s = .next t ∧ t.pc = s.hl ∧ t.fetchBytes.head? = some (s.getReg src) ∧
      (Admitted s.launch (s.getReg src) →
        t.fetchInstr = decodeOp (s.getReg src) (t.busRead (t.pc + 1#16)) (t.busRead (t.pc + 2#16)))

/-! ## Registers -/

/-- R37, R38: the pair views are views, and round-trip; AF drops F's low nibble. -/
def Obligations.PairViewsRoundTrip : Prop :=
  ∀ (s : State) (v : Addr),
    (s.setBc v).bc = v ∧ (s.setDe v).de = v ∧ (s.setHl v).hl = v ∧ (s.setAf v).af = v &&& 0xFFF0#16 ∧
    (s.setBc v).b.toNat = v.toNat / 256 ∧ (s.setBc v).c.toNat = v.toNat % 256 ∧
    (s.setDe v).d.toNat = v.toNat / 256 ∧ (s.setDe v).e.toNat = v.toNat % 256 ∧
    (s.setHl v).h.toNat = v.toNat / 256 ∧ (s.setHl v).l.toNat = v.toNat % 256 ∧
    (s.setAf v).a.toNat = v.toNat / 256 ∧ (s.setAf v).f = loByte v &&& 0xF0#8 ∧
    s.af.toNat = 256 * s.a.toNat + s.f.toNat ∧ s.bc.toNat = 256 * s.b.toNat + s.c.toNat ∧
    s.de.toNat = 256 * s.d.toNat + s.e.toNat ∧ s.hl.toNat = 256 * s.h.toNat + s.l.toNat

/-- R36: setting or clearing one flag leaves the other three unaffected, and bits 3..0 of F at 0. -/
def Obligations.FlagAccessorsIsolateTheirBit : Prop :=
  ∀ (s : State) (k j : Flag) (b : Bool),
    (s.setFlag k b).getFlag k = b ∧ (j ≠ k → (s.setFlag k b).getFlag j = s.getFlag j) ∧
    (s.setFlag k b).f &&& 0x0F#8 = 0#8

/-! ## Loads -/

/-- R200, R202, R203: LD r,n, LD r,r' and LD r,(HL) load the register; no flag, no other register and no memory
changes. -/
def Obligations.LoadsIntoARegister : Prop :=
  ∀ (s : State) (dst : Reg8),
    (∀ n, encode (.ldRN dst n) = [0b00#2 ++ dst.code ++ 0b110#3, n] ∧
      ∃ t, exec (.ldRN dst n) s = .next t ∧ t.getReg dst = n ∧ t.pc = s.pc + 2#16 ∧
      Costs s t CycleTable.ldRN 8 ∧ t.f = s.f ∧ t.sp = s.sp ∧ KeepsRegs s t [dst] ∧ KeepsSystem s t ∧
      KeepsMemory s t) ∧
    (∀ src, encode (.ldRR dst src) = [0b01#2 ++ dst.code ++ src.code] ∧
      ∃ t, exec (.ldRR dst src) s = .next t ∧ t.getReg dst = s.getReg src ∧ t.pc = s.pc + 1#16 ∧
      Costs s t CycleTable.ldRR 4 ∧ t.f = s.f ∧ t.sp = s.sp ∧ KeepsRegs s t [dst] ∧ KeepsSystem s t ∧
      KeepsMemory s t) ∧
    (encode (.ldRHL dst) = [0b01#2 ++ dst.code ++ 0b110#3] ∧
      ∃ t, exec (.ldRHL dst) s = .next t ∧ t.getReg dst = s.busRead s.hl ∧ t.pc = s.pc + 1#16 ∧
      Costs s t CycleTable.ldRHL 8 ∧ t.f = s.f ∧ t.sp = s.sp ∧ KeepsRegs s t [dst] ∧ KeepsSystem s t ∧
      KeepsMemory s t)

/-- R201, R204: LD (HL),n and LD (HL),r store at HL, where that raises no RomWrite. -/
def Obligations.StoresAtHL : Prop :=
  ∀ s : State, ¬RomFaults s s.hl →
    (∀ n, encode (.ldHLN n) = [0x36#8, n] ∧
      ∃ t, exec (.ldHLN n) s = .next t ∧ t.busRead s.hl = storedByte s s.hl n ∧ t.pc = s.pc + 2#16 ∧
      Costs s t CycleTable.ldHLN 12 ∧ StoresOnly s t [s.hl] ∧ t.f = s.f ∧ t.sp = s.sp ∧ KeepsRegs s t [] ∧
      KeepsSystem s t) ∧
    (∀ src, encode (.ldHLR src) = [0b01110#5 ++ src.code] ∧
      ∃ t, exec (.ldHLR src) s = .next t ∧ t.busRead s.hl = storedByte s s.hl (s.getReg src) ∧
      t.pc = s.pc + 1#16 ∧ Costs s t CycleTable.ldHLR 8 ∧ StoresOnly s t [s.hl] ∧ t.f = s.f ∧ t.sp = s.sp ∧
      KeepsRegs s t [] ∧ KeepsSystem s t)

/-- R205: LD rp,nn loads a pair or SP, high byte to the first register. -/
def Obligations.LoadsIntoAPair : Prop :=
  ∀ (s : State) (p : RegPair) (nn : Addr),
    encode (.ldRpNN p nn) = [0b00#2 ++ p.code ++ 0b0001#4, loByte nn, hiByte nn] ∧
    ∃ t, exec (.ldRpNN p nn) s = .next t ∧ t.getPair p = nn ∧
    t.pc = s.pc + 3#16 ∧ Costs s t CycleTable.ldRpNN 12 ∧ t.f = s.f ∧ (p ≠ .sp → t.sp = s.sp) ∧
    KeepsRegs s t (pairRegs p) ∧ KeepsSystem s t ∧ KeepsMemory s t ∧
    match p with
    | .bc => t.b.toNat = nn.toNat / 256 ∧ t.c.toNat = nn.toNat % 256
    | .de => t.d.toNat = nn.toNat / 256 ∧ t.e.toNat = nn.toNat % 256
    | .hl => t.h.toNat = nn.toNat / 256 ∧ t.l.toNat = nn.toNat % 256
    | .sp => t.sp = nn

/-! ## Arithmetic and logic -/

/-- R310-R315, R300: ADD and ADC write the sum mod 2^8 to A; H and C are the carries out of bit 3 and bit 7; ADC adds
the input carry, which counts toward H and C, and ADD ignores it. -/
def Obligations.AddAndAdcWriteSumAndFlags : Prop :=
  ∀ (s : State) (x : Second),
    let a := s.a.toNat
    let v := (x.value s).toNat
    let cin : Nat := if s.f.getLsbD 4 then 1 else 0
    (encode (addForm x) = x.bytes 0b000#3 ∧
      ∃ t, exec (addForm x) s = .next t ∧ t.a.toNat = (a + v) % 256 ∧
      FlagsAre t (decide ((a + v) % 256 = 0)) false (decide (a % 16 + v % 16 > 15)) (decide (a + v > 255)) ∧
      AluFrame s t x) ∧
    (encode (adcForm x) = x.bytes 0b001#3 ∧
      ∃ t, exec (adcForm x) s = .next t ∧ t.a.toNat = (a + v + cin) % 256 ∧
      FlagsAre t (decide ((a + v + cin) % 256 = 0)) false (decide (a % 16 + v % 16 + cin > 15))
        (decide (a + v + cin > 255)) ∧
      AluFrame s t x)

/-- R316-R321 with R301: SUB and SBC write the difference mod 2^8 to A, N = 1, H and C the borrows, on integers; SBC
subtracts the input carry too, and SUB ignores it. -/
def Obligations.SubAndSbcWriteDifferenceAndFlags : Prop :=
  ∀ (s : State) (x : Second),
    let a := s.a.toNat
    let v := (x.value s).toNat
    let cin : Nat := if s.f.getLsbD 4 then 1 else 0
    (encode (subForm x) = x.bytes 0b010#3 ∧
      ∃ t, exec (subForm x) s = .next t ∧
      (t.a.toNat : Int) = ((a : Int) - v) % 256 ∧
      FlagsAre t (decide (a = v)) true (decide (a % 16 < v % 16)) (decide (a < v)) ∧ AluFrame s t x) ∧
    (encode (sbcForm x) = x.bytes 0b011#3 ∧
      ∃ t, exec (sbcForm x) s = .next t ∧
      (t.a.toNat : Int) = ((a : Int) - ((v : Int) + cin)) % 256 ∧
      FlagsAre t (decide (((a : Int) - ((v : Int) + cin)) % 256 = 0)) true (decide (a % 16 < v % 16 + cin))
        (decide (a < v + cin)) ∧
      AluFrame s t x)

/-- R322-R330, R302-R304: AND, XOR and OR work bit by bit into A; Z of the result, N = C = 0, H = 1 for AND alone. -/
def Obligations.LogicWritesBitsAndFlags : Prop :=
  ∀ (s : State) (x : Second),
    (encode (andForm x) = x.bytes 0b100#3 ∧
      ∃ t, exec (andForm x) s = .next t ∧ (∀ k, t.a.getLsbD k = (s.a.getLsbD k && (x.value s).getLsbD k)) ∧
      FlagsAre t (decide (t.a.toNat = 0)) false true false ∧ AluFrame s t x) ∧
    (encode (xorForm x) = x.bytes 0b101#3 ∧
      ∃ t, exec (xorForm x) s = .next t ∧ (∀ k, t.a.getLsbD k = (s.a.getLsbD k ^^ (x.value s).getLsbD k)) ∧
      FlagsAre t (decide (t.a.toNat = 0)) false false false ∧ AluFrame s t x) ∧
    (encode (orForm x) = x.bytes 0b110#3 ∧
      ∃ t, exec (orForm x) s = .next t ∧ (∀ k, t.a.getLsbD k = (s.a.getLsbD k || (x.value s).getLsbD k)) ∧
      FlagsAre t (decide (t.a.toNat = 0)) false false false ∧ AluFrame s t x)

/-- R331-R333 with R305: CP writes the flags of the subtraction and leaves A alone; Z exactly when A = v. -/
def Obligations.CompareWritesFlagsOnly : Prop :=
  ∀ (s : State) (x : Second),
    let a := s.a.toNat
    let v := (x.value s).toNat
    encode (cpForm x) = x.bytes 0b111#3 ∧
      ∃ t, exec (cpForm x) s = .next t ∧ t.a = s.a ∧
      FlagsAre t (decide (a = v)) true (decide (a % 16 < v % 16)) (decide (a < v)) ∧ AluFrame s t x

/-- R334, R336 with R306, R307: INC r and DEC r write the register and Z, N, H; C is unchanged. -/
def Obligations.IncDecRegisterKeepsCarry : Prop :=
  ∀ (s : State) (r : Reg8),
    let v := (s.getReg r).toNat
    (encode (.incR r) = [0b00#2 ++ r.code ++ 0b100#3] ∧
      ∃ t, exec (.incR r) s = .next t ∧ (t.getReg r).toNat = (v + 1) % 256 ∧
      FlagsAre t (decide (v = 255)) false (decide (v % 16 = 15)) (s.f.getLsbD 4) ∧ t.pc = s.pc + 1#16 ∧
      Costs s t CycleTable.incDecR 4 ∧ t.sp = s.sp ∧ KeepsRegs s t [r] ∧ KeepsSystem s t ∧ KeepsMemory s t) ∧
    (encode (.decR r) = [0b00#2 ++ r.code ++ 0b101#3] ∧
      ∃ t, exec (.decR r) s = .next t ∧ (t.getReg r).toNat = (v + 255) % 256 ∧
      FlagsAre t (decide (v = 1)) true (decide (v % 16 = 0)) (s.f.getLsbD 4) ∧ t.pc = s.pc + 1#16 ∧
      Costs s t CycleTable.incDecR 4 ∧ t.sp = s.sp ∧ KeepsRegs s t [r] ∧ KeepsSystem s t ∧ KeepsMemory s t)

/-- R335, R337: INC (HL) and DEC (HL), where the write raises no RomWrite: the flags come from the byte read, whatever
the write stores. -/
def Obligations.IncDecAtHLKeepsCarry : Prop :=
  ∀ s : State, ¬RomFaults s s.hl →
    let v := s.busRead s.hl
    (encode .incHL = [0x34#8] ∧
      ∃ t, exec .incHL s = .next t ∧ t.busRead s.hl = storedByte s s.hl (v + 1#8) ∧
      FlagsAre t (decide (v.toNat = 255)) false (decide (v.toNat % 16 = 15)) (s.f.getLsbD 4) ∧ t.pc = s.pc + 1#16 ∧
      Costs s t CycleTable.incDecHL 12 ∧ StoresOnly s t [s.hl] ∧ t.sp = s.sp ∧ KeepsRegs s t [] ∧ KeepsSystem s t) ∧
    (encode .decHL = [0x35#8] ∧
      ∃ t, exec .decHL s = .next t ∧ t.busRead s.hl = storedByte s s.hl (v - 1#8) ∧
      FlagsAre t (decide (v.toNat = 1)) true (decide (v.toNat % 16 = 0)) (s.f.getLsbD 4) ∧ t.pc = s.pc + 1#16 ∧
      Costs s t CycleTable.incDecHL 12 ∧ StoresOnly s t [s.hl] ∧ t.sp = s.sp ∧ KeepsRegs s t [] ∧ KeepsSystem s t)

/-- R338, R339: INC rp and DEC rp wrap mod 2^16 and write no flag. -/
def Obligations.IncDecPairWritesNoFlag : Prop :=
  ∀ (s : State) (p : RegPair),
    (encode (.incRp p) = [0b00#2 ++ p.code ++ 0b0011#4] ∧
      ∃ t, exec (.incRp p) s = .next t ∧ (t.getPair p).toNat = ((s.getPair p).toNat + 1) % 65536 ∧ t.f = s.f ∧
      t.pc = s.pc + 1#16 ∧ Costs s t CycleTable.incDecRp 8 ∧ (p ≠ .sp → t.sp = s.sp) ∧ KeepsRegs s t (pairRegs p) ∧
      KeepsSystem s t ∧ KeepsMemory s t) ∧
    (encode (.decRp p) = [0b00#2 ++ p.code ++ 0b1011#4] ∧
      ∃ t, exec (.decRp p) s = .next t ∧ (t.getPair p).toNat = ((s.getPair p).toNat + 65535) % 65536 ∧ t.f = s.f ∧
      t.pc = s.pc + 1#16 ∧ Costs s t CycleTable.incDecRp 8 ∧ (p ≠ .sp → t.sp = s.sp) ∧ KeepsRegs s t (pairRegs p) ∧
      KeepsSystem s t ∧ KeepsMemory s t)

/-- R340: LD HL,SP+e: HL is SP plus the signed byte mod 2^16; Z = N = 0, H and C of the unsigned low-byte addition;
SP stays. -/
def Obligations.LoadHLFromSpPlusOffset : Prop :=
  ∀ (s : State) (e : Byte), encode (.ldHLSPe e) = [0xF8#8, e] ∧
    ∃ t, exec (.ldHLSPe e) s = .next t ∧
    (t.hl.toNat : Int) = ((s.sp.toNat : Int) + e.toInt) % 65536 ∧
    FlagsAre t false false (decide (s.sp.toNat % 16 + e.toNat % 16 > 15)) (decide (s.sp.toNat % 256 + e.toNat > 255)) ∧
    t.pc = s.pc + 2#16 ∧ Costs s t CycleTable.ldHLSPe 12 ∧ t.sp = s.sp ∧ KeepsRegs s t [.h, .l] ∧ KeepsSystem s t ∧
    KeepsMemory s t

/-! ## Stack and control -/

/-- R402 with R400: PUSH, where neither byte raises RomWrite. -/
def Obligations.PushStoresThePair : Prop :=
  ∀ (s : State) (q : StackPair), PushAllowed s → encode (.push q) = [0b11#2 ++ q.code ++ 0b0101#4] ∧
    ∃ t, exec (.push q) s = .next t ∧ Pushed s t (s.getStackPair q) ∧
    t.pc = s.pc + 1#16 ∧ Costs s t CycleTable.push 16

/-- R403 with R401: POP reads the word at SP and adds 2 to SP; POP AF alone writes flags, from bits 7..4 of the low
byte. -/
def Obligations.PopLoadsThePair : Prop :=
  ∀ (s : State) (q : StackPair), encode (.pop q) = [0b11#2 ++ q.code ++ 0b0001#4] ∧
    ∃ t, exec (.pop q) s = .next t ∧
    t.getStackPair q = (if q = .af then s.busReadWord s.sp &&& 0xFFF0#16 else s.busReadWord s.sp) ∧
    t.sp = s.sp + 2#16 ∧ t.pc = s.pc + 1#16 ∧ Costs s t CycleTable.pop 12 ∧ (q ≠ .af → t.f = s.f) ∧
    KeepsRegs s t (match q with | .bc => [.b, .c] | .de => [.d, .e] | .hl => [.h, .l] | .af => [.a]) ∧
    KeepsSystem s t ∧ KeepsMemory s t

/-- PUSH then POP of the same pair restores it and SP, and a RET after a CALL goes to the instruction after the CALL and
restores SP, where the two bytes are plain RAM outside 0xFF44 (R402, R403, R404, R406). -/
def Obligations.StackRoundTrips : Prop :=
  ∀ s : State, s.route (s.sp - 2#16) ≠ .cart → s.route (s.sp - 1#16) ≠ .cart →
    s.sp - 2#16 ≠ 0xFF44#16 → s.sp - 1#16 ≠ 0xFF44#16 →
    (∀ q, s.f &&& 0x0F#8 = 0#8 → ∃ t u, exec (.push q) s = .next t ∧ exec (.pop q) t = .next u ∧
      u.getStackPair q = s.getStackPair q ∧ u.sp = s.sp ∧ u.f = s.f ∧ KeepsRegs s u []) ∧
    (∀ nn, ∃ t u, exec (.call nn) s = .next t ∧ exec .ret t = .next u ∧ u.pc = s.pc + 3#16 ∧ u.sp = s.sp)

/-- R404, R405: CALL pushes pc + 3 and goes to nn; RST pushes pc + 1 and goes to its target; where neither byte of the
push raises RomWrite. -/
def Obligations.CallAndRestartPushTheReturnAddress : Prop :=
  ∀ s : State, PushAllowed s →
    (∀ nn, encode (.call nn) = [0xCD#8, loByte nn, hiByte nn] ∧
      ∃ t, exec (.call nn) s = .next t ∧ Pushed s t (s.pc + 3#16) ∧ t.pc = nn ∧ Costs s t CycleTable.call 24) ∧
    (∀ y : BitVec 3, let k : Byte := 0b00#2 ++ y ++ 0b000#3
      encode (.rst k) = [0b11#2 ++ y ++ 0b111#3] ∧
      ∃ t, exec (.rst k) s = .next t ∧ Pushed s t (s.pc + 1#16) ∧
      t.pc.toNat = 8 * y.toNat ∧ Costs s t CycleTable.rst 16)

/-- R451, R452 with R450: JP goes to nn; JR cc goes to pc + 2 + the signed byte where its condition holds, else to
pc + 2, at the two costs; nothing else changes. -/
def Obligations.JumpsSetThePc : Prop :=
  ∀ s : State,
    (∀ nn, encode (.jp nn) = [0xC3#8, loByte nn, hiByte nn] ∧
      ∃ t, exec (.jp nn) s = .next t ∧ t.pc = nn ∧ Costs s t CycleTable.jp 16 ∧ OnlyPcClk s t) ∧
    (∀ cc e, encode (.jrCc cc e) = [0b001#3 ++ cc.code ++ 0b000#3, e] ∧
      ∃ t, exec (.jrCc cc e) s = .next t ∧ OnlyPcClk s t ∧
      if conditionHolds s.f cc = true then
        (t.pc.toNat : Int) = ((s.pc.toNat : Int) + 2 + e.toInt) % 65536 ∧ Costs s t CycleTable.jrCcTaken 12
      else t.pc.toNat = (s.pc.toNat + 2) % 65536 ∧ Costs s t CycleTable.jrCcNotTaken 8)

/-- R406, R453: RET goes to the word at SP and adds 2 to SP; so does RET cc where its condition holds, else it falls
through with SP as it was; neither writes memory, a flag or another register. -/
def Obligations.ReturnsPopThePc : Prop :=
  ∀ s : State,
    (encode .ret = [0xC9#8] ∧
      ∃ t, exec .ret s = .next t ∧ t.pc = s.busReadWord s.sp ∧ t.sp = s.sp + 2#16 ∧ Costs s t CycleTable.ret 16 ∧
      t.f = s.f ∧ KeepsRegs s t [] ∧ KeepsSystem s t ∧ KeepsMemory s t) ∧
    ∀ cc : Cond, encode (.retCc cc) = [0b110#3 ++ cc.code ++ 0b000#3] ∧
      ∃ t, exec (.retCc cc) s = .next t ∧
      t.f = s.f ∧ KeepsRegs s t [] ∧ KeepsSystem s t ∧ KeepsMemory s t ∧
      if conditionHolds s.f cc = true then
        t.pc = s.busReadWord s.sp ∧ t.sp = s.sp + 2#16 ∧ Costs s t CycleTable.retCcTaken 20
      else t.pc = s.pc + 1#16 ∧ t.sp = s.sp ∧ Costs s t CycleTable.retCcNotTaken 8

/-- R454, R455, R502: JR e, JP cc,nn and NOP where the launch admits them. -/
def Obligations.OptionalJumpsAndNopWhenAdmitted : Prop :=
  ∀ s : State,
    (s.launch.admitJr = true → ∀ e, ∃ t, exec (.jrE e) s = .next t ∧
      (t.pc.toNat : Int) = ((s.pc.toNat : Int) + 2 + e.toInt) % 65536 ∧ Costs s t CycleTable.jrE 12 ∧ OnlyPcClk s t) ∧
    (s.launch.admitJpCc = true → ∀ cc nn, ∃ t, exec (.jpCc cc nn) s = .next t ∧ OnlyPcClk s t ∧
      if conditionHolds s.f cc = true then
        t.pc = nn ∧ Costs s t CycleTable.jpCcTaken 16
      else t.pc = s.pc + 3#16 ∧ Costs s t CycleTable.jpCcNotTaken 12) ∧
    (s.launch.admitNop = true → ∃ t, exec .nop s = .next t ∧ t.pc = s.pc + 1#16 ∧ Costs s t CycleTable.nop 4 ∧
      OnlyPcClk s t)

/-- R456: CALL cc,nn where the launch admits it: taken it is a CALL (where neither byte raises RomWrite), not taken it
touches neither SP nor memory. -/
def Obligations.ConditionalCallWhenAdmitted : Prop :=
  ∀ (s : State) (cc : Cond) (nn : Addr), s.launch.admitCallCc = true →
    if conditionHolds s.f cc = true then
      PushAllowed s → ∃ t, exec (.callCc cc nn) s = .next t ∧ Pushed s t (s.pc + 3#16) ∧ t.pc = nn ∧
        Costs s t CycleTable.callCcTaken 24
    else ∃ t, exec (.callCc cc nn) s = .next t ∧ t.pc = s.pc + 3#16 ∧ Costs s t CycleTable.callCcNotTaken 12 ∧
      OnlyPcClk s t

/-- R134, R502, R454, R455, R456: the encodings of the optional instructions; where the launch does not admit one, it
raises UnimplementedOpcode with the opcode byte of its own encoding. -/
def Obligations.OptionalRowsFaultUnlessAdmitted : Prop :=
  encode .nop = [0x00#8] ∧ (∀ e, encode (.jrE e) = [0x18#8, e]) ∧
  (∀ cc nn, encode (.jpCc cc nn) = [0b110#3 ++ cc.code ++ 0b010#3, loByte nn, hiByte nn]) ∧
  (∀ cc nn, encode (.callCc cc nn) = [0b110#3 ++ cc.code ++ 0b100#3, loByte nn, hiByte nn]) ∧
  ∀ (s : State) (i : Instr),
    ((i = .nop ∧ s.launch.admitNop = false) ∨ (∃ e, i = .jrE e ∧ s.launch.admitJr = false) ∨
      (∃ cc nn, i = .jpCc cc nn ∧ s.launch.admitJpCc = false) ∨
      (∃ cc nn, i = .callCc cc nn ∧ s.launch.admitCallCc = false)) →
    ∃ op ∈ (encode i).head?, exec i s = .next { s with fault := some (.unimplementedOpcode op s.pc) }

/-- R500, R501: EI sets and DI clears IME, at once; nothing else but PC and CLK changes. -/
def Obligations.InterruptEnableInstructions : Prop :=
  ∀ s : State,
    (encode .ei = [0xFB#8] ∧
      ∃ t, exec .ei s = .next t ∧ t.ime = true ∧ t.pc = s.pc + 1#16 ∧ Costs s t CycleTable.eiDi 4 ∧
      OnlyPcClk { s with ime := true } t) ∧
    (encode .di = [0xF3#8] ∧
      ∃ t, exec .di s = .next t ∧ t.ime = false ∧ t.pc = s.pc + 1#16 ∧ Costs s t CycleTable.eiDi 4 ∧
      OnlyPcClk { s with ime := false } t)

/-! ## RomWrite -/

/-- R602: the instructions that can raise RomWrite are those that store at HL and those that push; each records the
first address in the ROM window, low byte before high byte, and changes nothing but FAULT. -/
def Obligations.StoresIntoTheRomWindowFault : Prop :=
  ∀ (s : State) (i : Instr),
    (storesAtHL i = true → RomFaults s s.hl → exec i s = .next { s with fault := some (.romWrite s.hl s.pc) }) ∧
    (pushes s i = true → RomFaults s (s.sp - 2#16) →
      exec i s = .next { s with fault := some (.romWrite (s.sp - 2#16) s.pc) }) ∧
    (pushes s i = true → ¬RomFaults s (s.sp - 2#16) → RomFaults s (s.sp - 1#16) →
      exec i s = .next { s with fault := some (.romWrite (s.sp - 1#16) s.pc) }) ∧
    (∀ t a p, Enabled s → exec i s = .next t → t.fault = some (.romWrite a p) →
      (storesAtHL i = true ∨ pushes s i = true) ∧ RomFaults s a ∧ p = s.pc)

/-! ## Power-on and the host -/

/-- R51, R700: the power-on state, for every launch, REG0, IME0 and RAM0; R701: Init() writes PC and SP and keeps every
other element, FAULT and CLK among them. -/
def Obligations.PowerOnAndInit : Prop :=
  (∀ (launch : Launch) (reg0 : Reg0) (ime0 : Bool) (ram0 : Memory),
    let s := State.powerOn launch reg0 ime0 ram0
    s.pc = 0x0100#16 ∧ s.sp = 0xFFFE#16 ∧ s.clk = 0 ∧ s.bank = 1 ∧ s.fault = none ∧
    s.a = reg0.a ∧ s.b = reg0.b ∧ s.c = reg0.c ∧ s.d = reg0.d ∧ s.e = reg0.e ∧ s.h = reg0.h ∧ s.l = reg0.l ∧
    (∀ k, s.f.getLsbD k = (decide (4 ≤ k) && reg0.f.getLsbD k)) ∧ s.ime = ime0 ∧ s.ram = ram0 ∧ s.launch = launch) ∧
  ∀ s : State, ∃ t, hostAct .init s = .done t ∧ t.pc = 0x0100#16 ∧ t.sp = 0xFFFE#16 ∧ t.f = s.f ∧ t.clk = s.clk ∧
    KeepsRegs s t [] ∧ KeepsSystem s t ∧ KeepsMemory s t

/-- R45: setFirstBankIndex stores any index from 0 up and refuses a negative one; R74: writeDirect stores v at 0xFF44
too, and is refused in the ROM window with a cartridge. Each changes nothing else. -/
def Obligations.HostWritesBankAndMemory : Prop :=
  ∀ s : State,
    (∀ k : Int, (k < 0 → hostAct (.setFirstBankIndex k) s = .refused) ∧
      (0 ≤ k → ∃ t, hostAct (.setFirstBankIndex k) s = .done t ∧ (t.bank : Int) = k ∧
      t = { s with bank := t.bank })) ∧
    ∀ (a : Addr) (v : Byte),
      (a < 0x8000#16 ∧ s.launch.cartPresent = true → hostAct (.writeDirect a v) s = .refused) ∧
      (¬(a < 0x8000#16 ∧ s.launch.cartPresent = true) →
        ∃ t, hostAct (.writeDirect a v) s = .done t ∧ t.busRead a = v ∧ StoresOnly s t [a] ∧
          t = { s with ram := t.ram })

/-- loadRom stores the bytes as they are, their number being ROM_LEN, and changes nothing else (R46, R615); it is done
where CLK is 0 and FAULT none, and refused elsewhere: that this is how the model reads "at launch, before the first
step" is log entry 11, the model's inference. -/
def Obligations.LoadRomStoresTheImage : Prop :=
  ∀ (s : State) (bytes : List Byte),
    (s.clk = 0 → s.fault = none →
      hostAct (.loadRom bytes) s = .done { s with launch := { s.launch with rom := bytes } }) ∧
    (s.clk ≠ 0 ∨ s.fault ≠ none → hostAct (.loadRom bytes) s = .refused)

/-- runToAddress is the loop of R711: a set FAULT, PC at the target, or a spent budget ends it, in that order and with
no step taken; else a turn applies the host's actions and takes a step, and the loop goes on from there; and an ending says
so of its state (R710). That the schedule bounds the turns, with `unfinished` where it is used up, is log entry 12. -/
def Obligations.RunToAddressEndings : Prop :=
  ∀ (hostSteps : HostAction → Bool) (target : Addr) (budget : Option Nat) (turns : List (List HostAction)) (s : State),
    (match runToAddress hostSteps target budget turns s with
      | .reached t => t.fault = none ∧ t.pc = target
      | .faulted r t => t.fault = some r
      | .budget t => t.fault = none ∧ t.pc ≠ target ∧ ∃ b, budget = some b ∧ b ≤ t.clk
      | .unfinished t => t.fault = none ∧ t.pc ≠ target ∧ ∀ b, budget = some b → t.clk < b) ∧
    (∀ r, s.fault = some r → runToAddress hostSteps target budget turns s = .faulted r s) ∧
    (s.fault = none → s.pc = target → runToAddress hostSteps target budget turns s = .reached s) ∧
    (∀ b, s.fault = none → s.pc ≠ target → budget = some b → b ≤ s.clk →
      runToAddress hostSteps target budget turns s = .budget s) ∧
    (s.fault = none → s.pc ≠ target → (∀ b, budget = some b → s.clk < b) →
      (turns = [] → runToAddress hostSteps target budget turns s = .unfinished s) ∧
      ∀ acts rest, turns = acts :: rest →
        ∃ u, step (acts.foldl (fun w act => w.hostEvent hostSteps act) s) = .next u ∧
          runToAddress hostSteps target budget turns s = runToAddress hostSteps target budget rest u)
end

