-- ==== Sys2Proof/Laws/State.lean ====
section
/-! SUPPORT. One lemma per field per state update, so that no later proof unfolds a record update. -/

namespace Sys2Proof.Machine

variable (s : State)

/-! ### writeF -/

@[simp] theorem State.writeF_a (v : Byte) : (s.writeF v).a = s.a := rfl
@[simp] theorem State.writeF_b (v : Byte) : (s.writeF v).b = s.b := rfl
@[simp] theorem State.writeF_c (v : Byte) : (s.writeF v).c = s.c := rfl
@[simp] theorem State.writeF_d (v : Byte) : (s.writeF v).d = s.d := rfl
@[simp] theorem State.writeF_e (v : Byte) : (s.writeF v).e = s.e := rfl
@[simp] theorem State.writeF_h (v : Byte) : (s.writeF v).h = s.h := rfl
@[simp] theorem State.writeF_l (v : Byte) : (s.writeF v).l = s.l := rfl
@[simp] theorem State.writeF_f (v : Byte) : (s.writeF v).f = v &&& 0xF0#8 := rfl
@[simp] theorem State.writeF_sp (v : Byte) : (s.writeF v).sp = s.sp := rfl
@[simp] theorem State.writeF_pc (v : Byte) : (s.writeF v).pc = s.pc := rfl
@[simp] theorem State.writeF_ime (v : Byte) : (s.writeF v).ime = s.ime := rfl
@[simp] theorem State.writeF_clk (v : Byte) : (s.writeF v).clk = s.clk := rfl
@[simp] theorem State.writeF_ram (v : Byte) : (s.writeF v).ram = s.ram := rfl
@[simp] theorem State.writeF_bank (v : Byte) : (s.writeF v).bank = s.bank := rfl
@[simp] theorem State.writeF_fault (v : Byte) : (s.writeF v).fault = s.fault := rfl
@[simp] theorem State.writeF_launch (v : Byte) : (s.writeF v).launch = s.launch := rfl

/-! ### setSp -/

@[simp] theorem State.setSp_a (v : Addr) : (s.setSp v).a = s.a := rfl
@[simp] theorem State.setSp_b (v : Addr) : (s.setSp v).b = s.b := rfl
@[simp] theorem State.setSp_c (v : Addr) : (s.setSp v).c = s.c := rfl
@[simp] theorem State.setSp_d (v : Addr) : (s.setSp v).d = s.d := rfl
@[simp] theorem State.setSp_e (v : Addr) : (s.setSp v).e = s.e := rfl
@[simp] theorem State.setSp_h (v : Addr) : (s.setSp v).h = s.h := rfl
@[simp] theorem State.setSp_l (v : Addr) : (s.setSp v).l = s.l := rfl
@[simp] theorem State.setSp_f (v : Addr) : (s.setSp v).f = s.f := rfl
@[simp] theorem State.setSp_sp (v : Addr) : (s.setSp v).sp = v := rfl
@[simp] theorem State.setSp_pc (v : Addr) : (s.setSp v).pc = s.pc := rfl
@[simp] theorem State.setSp_ime (v : Addr) : (s.setSp v).ime = s.ime := rfl
@[simp] theorem State.setSp_clk (v : Addr) : (s.setSp v).clk = s.clk := rfl
@[simp] theorem State.setSp_ram (v : Addr) : (s.setSp v).ram = s.ram := rfl
@[simp] theorem State.setSp_bank (v : Addr) : (s.setSp v).bank = s.bank := rfl
@[simp] theorem State.setSp_fault (v : Addr) : (s.setSp v).fault = s.fault := rfl
@[simp] theorem State.setSp_launch (v : Addr) : (s.setSp v).launch = s.launch := rfl

/-! ### setIme -/

@[simp] theorem State.setIme_a (v : Bool) : (s.setIme v).a = s.a := rfl
@[simp] theorem State.setIme_b (v : Bool) : (s.setIme v).b = s.b := rfl
@[simp] theorem State.setIme_c (v : Bool) : (s.setIme v).c = s.c := rfl
@[simp] theorem State.setIme_d (v : Bool) : (s.setIme v).d = s.d := rfl
@[simp] theorem State.setIme_e (v : Bool) : (s.setIme v).e = s.e := rfl
@[simp] theorem State.setIme_h (v : Bool) : (s.setIme v).h = s.h := rfl
@[simp] theorem State.setIme_l (v : Bool) : (s.setIme v).l = s.l := rfl
@[simp] theorem State.setIme_f (v : Bool) : (s.setIme v).f = s.f := rfl
@[simp] theorem State.setIme_sp (v : Bool) : (s.setIme v).sp = s.sp := rfl
@[simp] theorem State.setIme_pc (v : Bool) : (s.setIme v).pc = s.pc := rfl
@[simp] theorem State.setIme_ime (v : Bool) : (s.setIme v).ime = v := rfl
@[simp] theorem State.setIme_clk (v : Bool) : (s.setIme v).clk = s.clk := rfl
@[simp] theorem State.setIme_ram (v : Bool) : (s.setIme v).ram = s.ram := rfl
@[simp] theorem State.setIme_bank (v : Bool) : (s.setIme v).bank = s.bank := rfl
@[simp] theorem State.setIme_fault (v : Bool) : (s.setIme v).fault = s.fault := rfl
@[simp] theorem State.setIme_launch (v : Bool) : (s.setIme v).launch = s.launch := rfl

/-! ### setRam -/

@[simp] theorem State.setRam_a (i : Addr) (v : Byte) : (s.setRam i v).a = s.a := rfl
@[simp] theorem State.setRam_b (i : Addr) (v : Byte) : (s.setRam i v).b = s.b := rfl
@[simp] theorem State.setRam_c (i : Addr) (v : Byte) : (s.setRam i v).c = s.c := rfl
@[simp] theorem State.setRam_d (i : Addr) (v : Byte) : (s.setRam i v).d = s.d := rfl
@[simp] theorem State.setRam_e (i : Addr) (v : Byte) : (s.setRam i v).e = s.e := rfl
@[simp] theorem State.setRam_h (i : Addr) (v : Byte) : (s.setRam i v).h = s.h := rfl
@[simp] theorem State.setRam_l (i : Addr) (v : Byte) : (s.setRam i v).l = s.l := rfl
@[simp] theorem State.setRam_f (i : Addr) (v : Byte) : (s.setRam i v).f = s.f := rfl
@[simp] theorem State.setRam_sp (i : Addr) (v : Byte) : (s.setRam i v).sp = s.sp := rfl
@[simp] theorem State.setRam_pc (i : Addr) (v : Byte) : (s.setRam i v).pc = s.pc := rfl
@[simp] theorem State.setRam_ime (i : Addr) (v : Byte) : (s.setRam i v).ime = s.ime := rfl
@[simp] theorem State.setRam_clk (i : Addr) (v : Byte) : (s.setRam i v).clk = s.clk := rfl
@[simp] theorem State.setRam_ram (i : Addr) (v : Byte) : (s.setRam i v).ram = ramWrite s.ram i.toNat v := rfl
@[simp] theorem State.setRam_bank (i : Addr) (v : Byte) : (s.setRam i v).bank = s.bank := rfl
@[simp] theorem State.setRam_fault (i : Addr) (v : Byte) : (s.setRam i v).fault = s.fault := rfl
@[simp] theorem State.setRam_launch (i : Addr) (v : Byte) : (s.setRam i v).launch = s.launch := rfl

/-! ### raiseFault -/

@[simp] theorem State.raiseFault_a (r : FaultRecord) : (s.raiseFault r).a = s.a := rfl
@[simp] theorem State.raiseFault_b (r : FaultRecord) : (s.raiseFault r).b = s.b := rfl
@[simp] theorem State.raiseFault_c (r : FaultRecord) : (s.raiseFault r).c = s.c := rfl
@[simp] theorem State.raiseFault_d (r : FaultRecord) : (s.raiseFault r).d = s.d := rfl
@[simp] theorem State.raiseFault_e (r : FaultRecord) : (s.raiseFault r).e = s.e := rfl
@[simp] theorem State.raiseFault_h (r : FaultRecord) : (s.raiseFault r).h = s.h := rfl
@[simp] theorem State.raiseFault_l (r : FaultRecord) : (s.raiseFault r).l = s.l := rfl
@[simp] theorem State.raiseFault_f (r : FaultRecord) : (s.raiseFault r).f = s.f := rfl
@[simp] theorem State.raiseFault_sp (r : FaultRecord) : (s.raiseFault r).sp = s.sp := rfl
@[simp] theorem State.raiseFault_pc (r : FaultRecord) : (s.raiseFault r).pc = s.pc := rfl
@[simp] theorem State.raiseFault_ime (r : FaultRecord) : (s.raiseFault r).ime = s.ime := rfl
@[simp] theorem State.raiseFault_clk (r : FaultRecord) : (s.raiseFault r).clk = s.clk := rfl
@[simp] theorem State.raiseFault_ram (r : FaultRecord) : (s.raiseFault r).ram = s.ram := rfl
@[simp] theorem State.raiseFault_bank (r : FaultRecord) : (s.raiseFault r).bank = s.bank := rfl
@[simp] theorem State.raiseFault_fault (r : FaultRecord) : (s.raiseFault r).fault = some r := rfl
@[simp] theorem State.raiseFault_launch (r : FaultRecord) : (s.raiseFault r).launch = s.launch := rfl

/-! ### retire -/

@[simp] theorem State.retire_a (p : Addr) (n : Nat) : (s.retire p n).a = s.a := rfl
@[simp] theorem State.retire_b (p : Addr) (n : Nat) : (s.retire p n).b = s.b := rfl
@[simp] theorem State.retire_c (p : Addr) (n : Nat) : (s.retire p n).c = s.c := rfl
@[simp] theorem State.retire_d (p : Addr) (n : Nat) : (s.retire p n).d = s.d := rfl
@[simp] theorem State.retire_e (p : Addr) (n : Nat) : (s.retire p n).e = s.e := rfl
@[simp] theorem State.retire_h (p : Addr) (n : Nat) : (s.retire p n).h = s.h := rfl
@[simp] theorem State.retire_l (p : Addr) (n : Nat) : (s.retire p n).l = s.l := rfl
@[simp] theorem State.retire_f (p : Addr) (n : Nat) : (s.retire p n).f = s.f := rfl
@[simp] theorem State.retire_sp (p : Addr) (n : Nat) : (s.retire p n).sp = s.sp := rfl
@[simp] theorem State.retire_pc (p : Addr) (n : Nat) : (s.retire p n).pc = p := rfl
@[simp] theorem State.retire_ime (p : Addr) (n : Nat) : (s.retire p n).ime = s.ime := rfl
@[simp] theorem State.retire_clk (p : Addr) (n : Nat) : (s.retire p n).clk = s.clk + n := rfl
@[simp] theorem State.retire_ram (p : Addr) (n : Nat) : (s.retire p n).ram = s.ram := rfl
@[simp] theorem State.retire_bank (p : Addr) (n : Nat) : (s.retire p n).bank = s.bank := rfl
@[simp] theorem State.retire_fault (p : Addr) (n : Nat) : (s.retire p n).fault = s.fault := rfl
@[simp] theorem State.retire_launch (p : Addr) (n : Nat) : (s.retire p n).launch = s.launch := rfl

/-! ### init -/

@[simp] theorem State.init_a : (s.init).a = s.a := rfl
@[simp] theorem State.init_b : (s.init).b = s.b := rfl
@[simp] theorem State.init_c : (s.init).c = s.c := rfl
@[simp] theorem State.init_d : (s.init).d = s.d := rfl
@[simp] theorem State.init_e : (s.init).e = s.e := rfl
@[simp] theorem State.init_h : (s.init).h = s.h := rfl
@[simp] theorem State.init_l : (s.init).l = s.l := rfl
@[simp] theorem State.init_f : (s.init).f = s.f := rfl
@[simp] theorem State.init_sp : (s.init).sp = 0xFFFE#16 := rfl
@[simp] theorem State.init_pc : (s.init).pc = 0x0100#16 := rfl
@[simp] theorem State.init_ime : (s.init).ime = s.ime := rfl
@[simp] theorem State.init_clk : (s.init).clk = s.clk := rfl
@[simp] theorem State.init_ram : (s.init).ram = s.ram := rfl
@[simp] theorem State.init_bank : (s.init).bank = s.bank := rfl
@[simp] theorem State.init_fault : (s.init).fault = s.fault := rfl
@[simp] theorem State.init_launch : (s.init).launch = s.launch := rfl

/-! ### setAf -/

@[simp] theorem State.setAf_a (v : Addr) : (s.setAf v).a = hiByte v := rfl
@[simp] theorem State.setAf_b (v : Addr) : (s.setAf v).b = s.b := rfl
@[simp] theorem State.setAf_c (v : Addr) : (s.setAf v).c = s.c := rfl
@[simp] theorem State.setAf_d (v : Addr) : (s.setAf v).d = s.d := rfl
@[simp] theorem State.setAf_e (v : Addr) : (s.setAf v).e = s.e := rfl
@[simp] theorem State.setAf_h (v : Addr) : (s.setAf v).h = s.h := rfl
@[simp] theorem State.setAf_l (v : Addr) : (s.setAf v).l = s.l := rfl
@[simp] theorem State.setAf_f (v : Addr) : (s.setAf v).f = loByte v &&& 0xF0#8 := rfl
@[simp] theorem State.setAf_sp (v : Addr) : (s.setAf v).sp = s.sp := rfl
@[simp] theorem State.setAf_pc (v : Addr) : (s.setAf v).pc = s.pc := rfl
@[simp] theorem State.setAf_ime (v : Addr) : (s.setAf v).ime = s.ime := rfl
@[simp] theorem State.setAf_clk (v : Addr) : (s.setAf v).clk = s.clk := rfl
@[simp] theorem State.setAf_ram (v : Addr) : (s.setAf v).ram = s.ram := rfl
@[simp] theorem State.setAf_bank (v : Addr) : (s.setAf v).bank = s.bank := rfl
@[simp] theorem State.setAf_fault (v : Addr) : (s.setAf v).fault = s.fault := rfl
@[simp] theorem State.setAf_launch (v : Addr) : (s.setAf v).launch = s.launch := rfl

/-! ### setBc -/

@[simp] theorem State.setBc_a (v : Addr) : (s.setBc v).a = s.a := rfl
@[simp] theorem State.setBc_b (v : Addr) : (s.setBc v).b = hiByte v := rfl
@[simp] theorem State.setBc_c (v : Addr) : (s.setBc v).c = loByte v := rfl
@[simp] theorem State.setBc_d (v : Addr) : (s.setBc v).d = s.d := rfl
@[simp] theorem State.setBc_e (v : Addr) : (s.setBc v).e = s.e := rfl
@[simp] theorem State.setBc_h (v : Addr) : (s.setBc v).h = s.h := rfl
@[simp] theorem State.setBc_l (v : Addr) : (s.setBc v).l = s.l := rfl
@[simp] theorem State.setBc_f (v : Addr) : (s.setBc v).f = s.f := rfl
@[simp] theorem State.setBc_sp (v : Addr) : (s.setBc v).sp = s.sp := rfl
@[simp] theorem State.setBc_pc (v : Addr) : (s.setBc v).pc = s.pc := rfl
@[simp] theorem State.setBc_ime (v : Addr) : (s.setBc v).ime = s.ime := rfl
@[simp] theorem State.setBc_clk (v : Addr) : (s.setBc v).clk = s.clk := rfl
@[simp] theorem State.setBc_ram (v : Addr) : (s.setBc v).ram = s.ram := rfl
@[simp] theorem State.setBc_bank (v : Addr) : (s.setBc v).bank = s.bank := rfl
@[simp] theorem State.setBc_fault (v : Addr) : (s.setBc v).fault = s.fault := rfl
@[simp] theorem State.setBc_launch (v : Addr) : (s.setBc v).launch = s.launch := rfl

/-! ### setDe -/

@[simp] theorem State.setDe_a (v : Addr) : (s.setDe v).a = s.a := rfl
@[simp] theorem State.setDe_b (v : Addr) : (s.setDe v).b = s.b := rfl
@[simp] theorem State.setDe_c (v : Addr) : (s.setDe v).c = s.c := rfl
@[simp] theorem State.setDe_d (v : Addr) : (s.setDe v).d = hiByte v := rfl
@[simp] theorem State.setDe_e (v : Addr) : (s.setDe v).e = loByte v := rfl
@[simp] theorem State.setDe_h (v : Addr) : (s.setDe v).h = s.h := rfl
@[simp] theorem State.setDe_l (v : Addr) : (s.setDe v).l = s.l := rfl
@[simp] theorem State.setDe_f (v : Addr) : (s.setDe v).f = s.f := rfl
@[simp] theorem State.setDe_sp (v : Addr) : (s.setDe v).sp = s.sp := rfl
@[simp] theorem State.setDe_pc (v : Addr) : (s.setDe v).pc = s.pc := rfl
@[simp] theorem State.setDe_ime (v : Addr) : (s.setDe v).ime = s.ime := rfl
@[simp] theorem State.setDe_clk (v : Addr) : (s.setDe v).clk = s.clk := rfl
@[simp] theorem State.setDe_ram (v : Addr) : (s.setDe v).ram = s.ram := rfl
@[simp] theorem State.setDe_bank (v : Addr) : (s.setDe v).bank = s.bank := rfl
@[simp] theorem State.setDe_fault (v : Addr) : (s.setDe v).fault = s.fault := rfl
@[simp] theorem State.setDe_launch (v : Addr) : (s.setDe v).launch = s.launch := rfl

/-! ### setHl -/

@[simp] theorem State.setHl_a (v : Addr) : (s.setHl v).a = s.a := rfl
@[simp] theorem State.setHl_b (v : Addr) : (s.setHl v).b = s.b := rfl
@[simp] theorem State.setHl_c (v : Addr) : (s.setHl v).c = s.c := rfl
@[simp] theorem State.setHl_d (v : Addr) : (s.setHl v).d = s.d := rfl
@[simp] theorem State.setHl_e (v : Addr) : (s.setHl v).e = s.e := rfl
@[simp] theorem State.setHl_h (v : Addr) : (s.setHl v).h = hiByte v := rfl
@[simp] theorem State.setHl_l (v : Addr) : (s.setHl v).l = loByte v := rfl
@[simp] theorem State.setHl_f (v : Addr) : (s.setHl v).f = s.f := rfl
@[simp] theorem State.setHl_sp (v : Addr) : (s.setHl v).sp = s.sp := rfl
@[simp] theorem State.setHl_pc (v : Addr) : (s.setHl v).pc = s.pc := rfl
@[simp] theorem State.setHl_ime (v : Addr) : (s.setHl v).ime = s.ime := rfl
@[simp] theorem State.setHl_clk (v : Addr) : (s.setHl v).clk = s.clk := rfl
@[simp] theorem State.setHl_ram (v : Addr) : (s.setHl v).ram = s.ram := rfl
@[simp] theorem State.setHl_bank (v : Addr) : (s.setHl v).bank = s.bank := rfl
@[simp] theorem State.setHl_fault (v : Addr) : (s.setHl v).fault = s.fault := rfl
@[simp] theorem State.setHl_launch (v : Addr) : (s.setHl v).launch = s.launch := rfl

/-! ### popped -/

@[simp] theorem State.popped_a : (s.popped).a = s.a := rfl
@[simp] theorem State.popped_b : (s.popped).b = s.b := rfl
@[simp] theorem State.popped_c : (s.popped).c = s.c := rfl
@[simp] theorem State.popped_d : (s.popped).d = s.d := rfl
@[simp] theorem State.popped_e : (s.popped).e = s.e := rfl
@[simp] theorem State.popped_h : (s.popped).h = s.h := rfl
@[simp] theorem State.popped_l : (s.popped).l = s.l := rfl
@[simp] theorem State.popped_f : (s.popped).f = s.f := rfl
@[simp] theorem State.popped_sp : (s.popped).sp = s.sp + 2#16 := rfl
@[simp] theorem State.popped_pc : (s.popped).pc = s.pc := rfl
@[simp] theorem State.popped_ime : (s.popped).ime = s.ime := rfl
@[simp] theorem State.popped_clk : (s.popped).clk = s.clk := rfl
@[simp] theorem State.popped_ram : (s.popped).ram = s.ram := rfl
@[simp] theorem State.popped_bank : (s.popped).bank = s.bank := rfl
@[simp] theorem State.popped_fault : (s.popped).fault = s.fault := rfl
@[simp] theorem State.popped_launch : (s.popped).launch = s.launch := rfl

/-! ### setFlags -/

@[simp] theorem State.setFlags_a (g : FlagBits) : (s.setFlags g).a = s.a := rfl
@[simp] theorem State.setFlags_b (g : FlagBits) : (s.setFlags g).b = s.b := rfl
@[simp] theorem State.setFlags_c (g : FlagBits) : (s.setFlags g).c = s.c := rfl
@[simp] theorem State.setFlags_d (g : FlagBits) : (s.setFlags g).d = s.d := rfl
@[simp] theorem State.setFlags_e (g : FlagBits) : (s.setFlags g).e = s.e := rfl
@[simp] theorem State.setFlags_h (g : FlagBits) : (s.setFlags g).h = s.h := rfl
@[simp] theorem State.setFlags_l (g : FlagBits) : (s.setFlags g).l = s.l := rfl
@[simp] theorem State.setFlags_f (g : FlagBits) : (s.setFlags g).f = packFlags g &&& 0xF0#8 := rfl
@[simp] theorem State.setFlags_sp (g : FlagBits) : (s.setFlags g).sp = s.sp := rfl
@[simp] theorem State.setFlags_pc (g : FlagBits) : (s.setFlags g).pc = s.pc := rfl
@[simp] theorem State.setFlags_ime (g : FlagBits) : (s.setFlags g).ime = s.ime := rfl
@[simp] theorem State.setFlags_clk (g : FlagBits) : (s.setFlags g).clk = s.clk := rfl
@[simp] theorem State.setFlags_ram (g : FlagBits) : (s.setFlags g).ram = s.ram := rfl
@[simp] theorem State.setFlags_bank (g : FlagBits) : (s.setFlags g).bank = s.bank := rfl
@[simp] theorem State.setFlags_fault (g : FlagBits) : (s.setFlags g).fault = s.fault := rfl
@[simp] theorem State.setFlags_launch (g : FlagBits) : (s.setFlags g).launch = s.launch := rfl

/-! ### setAlu -/

@[simp] theorem State.setAlu_a (r : AluResult) : (s.setAlu r).a = r.res := rfl
@[simp] theorem State.setAlu_b (r : AluResult) : (s.setAlu r).b = s.b := rfl
@[simp] theorem State.setAlu_c (r : AluResult) : (s.setAlu r).c = s.c := rfl
@[simp] theorem State.setAlu_d (r : AluResult) : (s.setAlu r).d = s.d := rfl
@[simp] theorem State.setAlu_e (r : AluResult) : (s.setAlu r).e = s.e := rfl
@[simp] theorem State.setAlu_h (r : AluResult) : (s.setAlu r).h = s.h := rfl
@[simp] theorem State.setAlu_l (r : AluResult) : (s.setAlu r).l = s.l := rfl
@[simp] theorem State.setAlu_f (r : AluResult) : (s.setAlu r).f = packFlags r.flags &&& 0xF0#8 := rfl
@[simp] theorem State.setAlu_sp (r : AluResult) : (s.setAlu r).sp = s.sp := rfl
@[simp] theorem State.setAlu_pc (r : AluResult) : (s.setAlu r).pc = s.pc := rfl
@[simp] theorem State.setAlu_ime (r : AluResult) : (s.setAlu r).ime = s.ime := rfl
@[simp] theorem State.setAlu_clk (r : AluResult) : (s.setAlu r).clk = s.clk := rfl
@[simp] theorem State.setAlu_ram (r : AluResult) : (s.setAlu r).ram = s.ram := rfl
@[simp] theorem State.setAlu_bank (r : AluResult) : (s.setAlu r).bank = s.bank := rfl
@[simp] theorem State.setAlu_fault (r : AluResult) : (s.setAlu r).fault = s.fault := rfl
@[simp] theorem State.setAlu_launch (r : AluResult) : (s.setAlu r).launch = s.launch := rfl

/-! ### setFlag -/

@[simp] theorem State.setFlag_a (k : Flag) (b : Bool) : (s.setFlag k b).a = s.a := rfl
@[simp] theorem State.setFlag_b (k : Flag) (b : Bool) : (s.setFlag k b).b = s.b := rfl
@[simp] theorem State.setFlag_c (k : Flag) (b : Bool) : (s.setFlag k b).c = s.c := rfl
@[simp] theorem State.setFlag_d (k : Flag) (b : Bool) : (s.setFlag k b).d = s.d := rfl
@[simp] theorem State.setFlag_e (k : Flag) (b : Bool) : (s.setFlag k b).e = s.e := rfl
@[simp] theorem State.setFlag_h (k : Flag) (b : Bool) : (s.setFlag k b).h = s.h := rfl
@[simp] theorem State.setFlag_l (k : Flag) (b : Bool) : (s.setFlag k b).l = s.l := rfl
@[simp] theorem State.setFlag_f (k : Flag) (b : Bool) : (s.setFlag k b).f = ((s.f &&& ~~~(1#8 <<< flagBit k)) ||| ((BitVec.ofBool b).zeroExtend 8 <<< flagBit k)) &&& 0xF0#8 := rfl
@[simp] theorem State.setFlag_sp (k : Flag) (b : Bool) : (s.setFlag k b).sp = s.sp := rfl
@[simp] theorem State.setFlag_pc (k : Flag) (b : Bool) : (s.setFlag k b).pc = s.pc := rfl
@[simp] theorem State.setFlag_ime (k : Flag) (b : Bool) : (s.setFlag k b).ime = s.ime := rfl
@[simp] theorem State.setFlag_clk (k : Flag) (b : Bool) : (s.setFlag k b).clk = s.clk := rfl
@[simp] theorem State.setFlag_ram (k : Flag) (b : Bool) : (s.setFlag k b).ram = s.ram := rfl
@[simp] theorem State.setFlag_bank (k : Flag) (b : Bool) : (s.setFlag k b).bank = s.bank := rfl
@[simp] theorem State.setFlag_fault (k : Flag) (b : Bool) : (s.setFlag k b).fault = s.fault := rfl
@[simp] theorem State.setFlag_launch (k : Flag) (b : Bool) : (s.setFlag k b).launch = s.launch := rfl

/-! ### setZNH -/

@[simp] theorem State.setZNH_a (r : StepResult) : (s.setZNH r).a = s.a := rfl
@[simp] theorem State.setZNH_b (r : StepResult) : (s.setZNH r).b = s.b := rfl
@[simp] theorem State.setZNH_c (r : StepResult) : (s.setZNH r).c = s.c := rfl
@[simp] theorem State.setZNH_d (r : StepResult) : (s.setZNH r).d = s.d := rfl
@[simp] theorem State.setZNH_e (r : StepResult) : (s.setZNH r).e = s.e := rfl
@[simp] theorem State.setZNH_h (r : StepResult) : (s.setZNH r).h = s.h := rfl
@[simp] theorem State.setZNH_l (r : StepResult) : (s.setZNH r).l = s.l := rfl
@[simp] theorem State.setZNH_sp (r : StepResult) : (s.setZNH r).sp = s.sp := rfl
@[simp] theorem State.setZNH_pc (r : StepResult) : (s.setZNH r).pc = s.pc := rfl
@[simp] theorem State.setZNH_ime (r : StepResult) : (s.setZNH r).ime = s.ime := rfl
@[simp] theorem State.setZNH_clk (r : StepResult) : (s.setZNH r).clk = s.clk := rfl
@[simp] theorem State.setZNH_ram (r : StepResult) : (s.setZNH r).ram = s.ram := rfl
@[simp] theorem State.setZNH_bank (r : StepResult) : (s.setZNH r).bank = s.bank := rfl
@[simp] theorem State.setZNH_fault (r : StepResult) : (s.setZNH r).fault = s.fault := rfl
@[simp] theorem State.setZNH_launch (r : StepResult) : (s.setZNH r).launch = s.launch := rfl

/-! ### setReg -/

@[simp] theorem State.setReg_f (r : Reg8) (v : Byte) : (s.setReg r v).f = s.f := by cases r <;> rfl
@[simp] theorem State.setReg_sp (r : Reg8) (v : Byte) : (s.setReg r v).sp = s.sp := by cases r <;> rfl
@[simp] theorem State.setReg_pc (r : Reg8) (v : Byte) : (s.setReg r v).pc = s.pc := by cases r <;> rfl
@[simp] theorem State.setReg_ime (r : Reg8) (v : Byte) : (s.setReg r v).ime = s.ime := by cases r <;> rfl
@[simp] theorem State.setReg_clk (r : Reg8) (v : Byte) : (s.setReg r v).clk = s.clk := by cases r <;> rfl
@[simp] theorem State.setReg_ram (r : Reg8) (v : Byte) : (s.setReg r v).ram = s.ram := by cases r <;> rfl
@[simp] theorem State.setReg_bank (r : Reg8) (v : Byte) : (s.setReg r v).bank = s.bank := by cases r <;> rfl
@[simp] theorem State.setReg_fault (r : Reg8) (v : Byte) : (s.setReg r v).fault = s.fault := by cases r <;> rfl
@[simp] theorem State.setReg_launch (r : Reg8) (v : Byte) : (s.setReg r v).launch = s.launch := by cases r <;> rfl

/-! ### setPair -/

@[simp] theorem State.setPair_a (p : RegPair) (v : Addr) : (s.setPair p v).a = s.a := by cases p <;> rfl
@[simp] theorem State.setPair_f (p : RegPair) (v : Addr) : (s.setPair p v).f = s.f := by cases p <;> rfl
@[simp] theorem State.setPair_pc (p : RegPair) (v : Addr) : (s.setPair p v).pc = s.pc := by cases p <;> rfl
@[simp] theorem State.setPair_ime (p : RegPair) (v : Addr) : (s.setPair p v).ime = s.ime := by cases p <;> rfl
@[simp] theorem State.setPair_clk (p : RegPair) (v : Addr) : (s.setPair p v).clk = s.clk := by cases p <;> rfl
@[simp] theorem State.setPair_ram (p : RegPair) (v : Addr) : (s.setPair p v).ram = s.ram := by cases p <;> rfl
@[simp] theorem State.setPair_bank (p : RegPair) (v : Addr) : (s.setPair p v).bank = s.bank := by cases p <;> rfl
@[simp] theorem State.setPair_fault (p : RegPair) (v : Addr) : (s.setPair p v).fault = s.fault := by cases p <;> rfl
@[simp] theorem State.setPair_launch (p : RegPair) (v : Addr) : (s.setPair p v).launch = s.launch := by cases p <;> rfl

/-! ### setStackPair -/

@[simp] theorem State.setStackPair_sp (q : StackPair) (v : Addr) : (s.setStackPair q v).sp = s.sp := by cases q <;> rfl
@[simp] theorem State.setStackPair_pc (q : StackPair) (v : Addr) : (s.setStackPair q v).pc = s.pc := by cases q <;> rfl
@[simp] theorem State.setStackPair_ime (q : StackPair) (v : Addr) : (s.setStackPair q v).ime = s.ime := by cases q <;> rfl
@[simp] theorem State.setStackPair_clk (q : StackPair) (v : Addr) : (s.setStackPair q v).clk = s.clk := by cases q <;> rfl
@[simp] theorem State.setStackPair_ram (q : StackPair) (v : Addr) : (s.setStackPair q v).ram = s.ram := by cases q <;> rfl
@[simp] theorem State.setStackPair_bank (q : StackPair) (v : Addr) : (s.setStackPair q v).bank = s.bank := by cases q <;> rfl
@[simp] theorem State.setStackPair_fault (q : StackPair) (v : Addr) : (s.setStackPair q v).fault = s.fault := by cases q <;> rfl
@[simp] theorem State.setStackPair_launch (q : StackPair) (v : Addr) : (s.setStackPair q v).launch = s.launch := by cases q <;> rfl

/-! ### Reading a register after a register write (R34) -/

@[simp] theorem State.getReg_setReg_same (r : Reg8) (v : Byte) : (s.setReg r v).getReg r = v := by
  cases r <;> rfl

theorem State.getReg_setReg_ne (r k : Reg8) (v : Byte) (h : k ≠ r) : (s.setReg r v).getReg k = s.getReg k := by
  cases r <;> cases k <;> first | rfl | exact absurd rfl h

/-- Two states with the same seven registers read the same through every encoding. -/
theorem State.getReg_congr {s t : State} (ha : t.a = s.a) (hb : t.b = s.b) (hc : t.c = s.c) (hd : t.d = s.d)
    (he : t.e = s.e) (hh : t.h = s.h) (hl : t.l = s.l) (r : Reg8) : t.getReg r = s.getReg r := by
  cases r <;> assumption

end Sys2Proof.Machine
end

