-- ==== Sys2Proof/Laws/Memory.lean ====
section
/-! SUPPORT. RAM: read after write, writes elsewhere, and the canonical form, for any list of cells. -/

namespace Sys2Proof.Machine

/-! ## Reading -/

theorem ramRead_filter_ne (m : Memory) (i j : Nat) (h : j ≠ i) :
    ramRead (m.filter (fun c => c.1 != i)) j = ramRead m j := by
  induction m with
  | nil => rfl
  | cons c rest ih =>
    obtain ⟨k, v⟩ := c
    by_cases hk : k = i
    · subst hk
      simpa [ramRead, List.filter_cons, Ne.symm h] using ih
    · simp only [List.filter_cons, bne_iff_ne, ne_eq, hk, not_false_eq_true, if_true, ramRead, ih]

theorem ramRead_of_no_cell (m : Memory) (i : Nat) (h : ∀ c ∈ m, c.1 ≠ i) : ramRead m i = ramUnlisted := by
  induction m with
  | nil => rfl
  | cons c rest ih =>
    simp only [List.mem_cons, forall_eq_or_imp] at h
    simpa [ramRead, h.1] using ih h.2

theorem ramRead_insert_same (m : Memory) (i : Nat) (v : Byte) (h : ∀ c ∈ m, c.1 ≠ i) :
    ramRead (ramInsert i v m) i = v := by
  induction m with
  | nil => simp [ramInsert, ramRead]
  | cons c rest ih =>
    simp only [List.mem_cons, forall_eq_or_imp] at h
    simp only [ramInsert]
    split
    · simp [ramRead]
    · simpa [ramRead, h.1] using ih h.2

theorem ramRead_insert_ne (m : Memory) (i j : Nat) (v : Byte) (h : j ≠ i) :
    ramRead (ramInsert i v m) j = ramRead m j := by
  induction m with
  | nil => simp [ramInsert, ramRead, Ne.symm h]
  | cons c rest ih =>
    simp only [ramInsert]
    split
    · simp [ramRead, Ne.symm h]
    · simp only [ramRead, ih]

theorem filter_no_cell (m : Memory) (i : Nat) : ∀ c ∈ m.filter (fun c => c.1 != i), c.1 ≠ i := by
  intro c hc
  simpa using (List.mem_filter.1 hc).2

/-- A read after a write to the same index gives the byte written. -/
@[simp] theorem ramRead_ramWrite_same (m : Memory) (i : Nat) (v : Byte) : ramRead (ramWrite m i v) i = v := by
  unfold ramWrite
  split
  · rename_i h
    rw [h, ramRead_of_no_cell _ _ (filter_no_cell m i)]
  · exact ramRead_insert_same _ _ _ (filter_no_cell m i)

/-- A write leaves every other index alone. -/
theorem ramRead_ramWrite_ne (m : Memory) (i j : Nat) (v : Byte) (h : j ≠ i) :
    ramRead (ramWrite m i v) j = ramRead m j := by
  unfold ramWrite
  split
  · exact ramRead_filter_ne m i j h
  · rw [ramRead_insert_ne _ _ _ _ h, ramRead_filter_ne m i j h]

/-! ## The canonical form -/

theorem mem_ramInsert (m : Memory) (i : Nat) (v : Byte) (c : Host.Cell) :
    c ∈ ramInsert i v m ↔ c = (i, v) ∨ c ∈ m := by
  induction m with
  | nil => simp [ramInsert]
  | cons d rest ih =>
    simp only [ramInsert]
    split
    · simp
    · simp only [List.mem_cons, ih]
      tauto

theorem ramInsert_sorted (m : Memory) (i : Nat) (v : Byte) (hs : m.Pairwise (fun x y => x.1 < y.1))
    (h : ∀ c ∈ m, c.1 ≠ i) : (ramInsert i v m).Pairwise (fun x y => x.1 < y.1) := by
  induction m with
  | nil => simp [ramInsert]
  | cons d rest ih =>
    rw [List.pairwise_cons] at hs
    simp only [List.mem_cons, forall_eq_or_imp] at h
    simp only [ramInsert]
    split
    · rename_i hlt
      refine List.pairwise_cons.2 ⟨?_, List.pairwise_cons.2 hs⟩
      intro c hc
      rcases List.mem_cons.1 hc with rfl | hc
      · exact hlt
      · exact lt_trans hlt (hs.1 c hc)
    · rename_i hge
      refine List.pairwise_cons.2 ⟨?_, ih hs.2 h.2⟩
      intro c hc
      rcases (mem_ramInsert rest i v c).1 hc with rfl | hc
      · have := h.1
        simp only at this ⊢
        omega
      · exact hs.1 c hc

theorem filter_wf (m : Memory) (i : Nat) (h : m.wf) : Memory.wf (m.filter (fun c => c.1 != i)) :=
  ⟨h.1.filter _, fun c hc => h.2 c (List.mem_filter.1 hc).1⟩

/-- A write keeps the canonical form. -/
theorem ramWrite_wf (m : Memory) (i : Nat) (v : Byte) (hi : i < 0x10000) (h : m.wf) : (ramWrite m i v).wf := by
  have hf := filter_wf m i h
  unfold ramWrite
  split
  · exact hf
  · rename_i hv
    refine ⟨ramInsert_sorted _ _ _ hf.1 (filter_no_cell m i), ?_⟩
    intro c hc
    rcases (mem_ramInsert _ i v c).1 hc with rfl | hc
    · exact ⟨hv, hi⟩
    · exact hf.2 c hc

/-- `State.setRam` keeps the canonical form: a RAM index is a 16-bit address. -/
theorem State.setRam_wf (s : State) (i : Addr) (v : Byte) (h : s.ram.wf) : (s.setRam i v).ram.wf :=
  ramWrite_wf _ _ _ i.isLt h

end Sys2Proof.Machine
end

