-- ==== Sys2Proof/Laws/Bus.lean ====
section
/-! SUPPORT. The bus and the stack helpers: what a read depends on, and everything a write can do, said once. -/

namespace Sys2Proof.Machine

/-! ## Routing -/

theorem route_cart_iff (p : Bool) (a : Addr) : route p a = .cart ↔ a < 0x8000#16 ∧ p = true := by
  unfold route
  split
  · simp_all
  · split <;> simp_all

theorem route_ram_of_not_cart (p : Bool) (a : Addr) (h : ¬(a < 0x8000#16 ∧ p = true)) :
    route p a = .ram (if 0xE000#16 ≤ a ∧ a ≤ 0xFDFF#16 then a - 0x2000#16 else a) := by
  unfold route
  rw [if_neg h]
  split <;> rfl

/-- A RAM index the bus reaches is never in the echo range (R71, R83). -/
theorem route_ram_index (p : Bool) (a i : Addr) (h : route p a = .ram i) :
    (0xE000#16 ≤ a ∧ a ≤ 0xFDFF#16 ∧ i = a - 0x2000#16) ∨ (¬(0xE000#16 ≤ a ∧ a ≤ 0xFDFF#16) ∧ i = a) := by
  unfold route at h
  split at h
  · cases h
  · split at h
    · rename_i h2; cases h; exact .inl ⟨h2.1, h2.2, rfl⟩
    · rename_i h2; cases h; exact .inr ⟨h2, rfl⟩

/-- The scanline byte is reached through 0xFF44 alone. -/
theorem route_scanline (p : Bool) (a : Addr) : route p a = .ram 0xFF44#16 ↔ a = 0xFF44#16 := by
  constructor
  · intro h
    rcases route_ram_index p a _ h with ⟨h1, h2, h3⟩ | ⟨-, h3⟩
    · exfalso; bv_omega
    · exact h3.symm
  · rintro rfl
    cases p <;> decide

theorem State.route_congr {s t : State} (h : t.launch = s.launch) (a : Addr) : t.route a = s.route a := by
  simp only [State.route, h]

/-! ## Reads -/

/-- A bus read depends on the launch parameters, BANK and RAM alone (R71, R72). -/
theorem State.busRead_congr {s t : State} (hl : t.launch = s.launch) (hb : t.bank = s.bank) (hr : t.ram = s.ram)
    (a : Addr) : t.busRead a = s.busRead a := by
  simp only [State.busRead, State.route, State.cartRead, hl, hb, hr]

theorem State.busReadWord_congr {s t : State} (hl : t.launch = s.launch) (hb : t.bank = s.bank) (hr : t.ram = s.ram)
    (a : Addr) : t.busReadWord a = s.busReadWord a := by
  simp only [State.busReadWord, State.busRead_congr hl hb hr]

/-- A RAM write is seen by every read routed to that index, and by no other (R71, R83). -/
theorem State.busRead_setRam (s : State) (i : Addr) (v : Byte) (a : Addr) :
    (s.setRam i v).busRead a = if s.route a = .ram i then v else s.busRead a := by
  have hr : (s.setRam i v).route a = s.route a := State.route_congr rfl a
  unfold State.busRead
  rw [hr]
  cases h : s.route a with
  | cart => simp [State.cartRead]
  | ram j =>
    by_cases hj : j = i
    · subst hj; simp
    · have : j.toNat ≠ i.toNat := fun h => hj (BitVec.eq_of_toNat_eq h)
      simp [hj, ramRead_ramWrite_ne _ _ _ _ this]

/-! ## Writes -/

/-- Everything a byte write can do (R73): raise RomWrite, be dropped, or store one byte of RAM. -/
theorem State.busWrite_cases (s : State) (a : Addr) (v : Byte) :
    (s.route a = .cart ∧ s.launch.romWritePolicy = .fault ∧ s.busWrite a v = .error a) ∨
    (s.route a = .cart ∧ s.launch.romWritePolicy = .ignore ∧ s.busWrite a v = .ok s) ∨
    (∃ i, s.route a = .ram i ∧ s.busWrite a v = .ok (s.setRam i (if a = 0xFF44#16 then 0x00#8 else v))) := by
  unfold State.busWrite
  cases hr : s.route a with
  | cart => cases hp : s.launch.romWritePolicy <;> simp
  | ram i => simp

/-- What a successful byte write leaves: RAM alone may differ, and it keeps its form. -/
theorem State.busWrite_ok {s t : State} {a : Addr} {v : Byte} (h : s.busWrite a v = .ok t) :
    t = { s with ram := t.ram } ∧ (s.ram.wf → t.ram.wf) := by
  rcases s.busWrite_cases a v with ⟨-, -, h'⟩ | ⟨-, -, h'⟩ | ⟨i, -, h'⟩ <;> rw [h] at h' <;> cases h'
  · exact ⟨rfl, id⟩
  · exact ⟨rfl, s.setRam_wf _ _⟩

/-- A byte write fails exactly in the ROM window, with a cartridge, under policy fault (R602). -/
theorem State.busWrite_error_iff (s : State) (a w : Addr) (v : Byte) :
    s.busWrite a v = .error w ↔ w = a ∧ s.route a = .cart ∧ s.launch.romWritePolicy = .fault := by
  rcases s.busWrite_cases a v with ⟨hr, hp, h⟩ | ⟨hr, hp, h⟩ | ⟨i, hr, h⟩
  · simp [h, hr, hp, eq_comm]
  · simp [h, hp]
  · simp [h, hr]

/-- Everything a word write can do (R76): the first failing byte raises, or both bytes are written. -/
theorem State.busWriteWord_cases (s : State) (a v : Addr) :
    (∃ w, s.busWriteWord a v = .error w ∧ s.launch.romWritePolicy = .fault ∧
      ((w = a ∧ s.route a = .cart) ∨ (w = a + 1#16 ∧ s.route a ≠ .cart ∧ s.route (a + 1#16) = .cart))) ∨
    (∃ t u, s.busWrite a (loByte v) = .ok t ∧ t.busWrite (a + 1#16) (hiByte v) = .ok u ∧
      s.busWriteWord a v = .ok u) := by
  unfold State.busWriteWord
  cases h1 : s.busWrite a (loByte v) with
  | error w =>
    rw [State.busWrite_error_iff] at h1
    exact .inl ⟨w, rfl, h1.2.2, .inl ⟨h1.1, h1.2.1⟩⟩
  | ok t =>
    have ht := (State.busWrite_ok h1).1
    have hl : t.launch = s.launch := by rw [ht]
    cases h2 : t.busWrite (a + 1#16) (hiByte v) with
    | error w =>
      have h3 := h2
      rw [State.busWrite_error_iff, State.route_congr hl, hl] at h3
      refine .inl ⟨w, h2, h3.2.2, .inr ⟨h3.1, ?_, h3.2.1⟩⟩
      intro hc
      have := (State.busWrite_error_iff s a a (loByte v)).2 ⟨rfl, hc, h3.2.2⟩
      rw [h1] at this
      cases this
    | ok u => exact .inr ⟨t, u, rfl, h2, h2⟩

/-- What a successful word write leaves: RAM alone may differ, and it keeps its form. -/
theorem State.busWriteWord_ok {s u : State} {a v : Addr} (h : s.busWriteWord a v = .ok u) :
    u = { s with ram := u.ram } ∧ (s.ram.wf → u.ram.wf) := by
  rcases s.busWriteWord_cases a v with ⟨w, h', -⟩ | ⟨t, u', h1, h2, h'⟩ <;> rw [h] at h' <;> cases h'
  have e1 := State.busWrite_ok h1
  have e2 := State.busWrite_ok h2
  refine ⟨?_, fun hw => e2.2 (e1.2 hw)⟩
  rw [e2.1, e1.1]

/-- What a successful push leaves: SP and RAM alone may differ (R400). -/
theorem State.push16_ok {s u : State} {v : Addr} (h : s.push16 v = .ok u) :
    u = { s with sp := s.sp - 2#16, ram := u.ram } ∧ (s.ram.wf → u.ram.wf) := by
  unfold State.push16 at h
  have e := State.busWriteWord_ok h
  exact ⟨e.1, e.2⟩

/-! ## The ends of a step -/

/-- `completeWrite` answers a next state always: the write completed, or RomWrite was raised on the state before. -/
theorem completeWrite_cases (s : State) (written : Except Addr State) (p : Addr) (n : Nat) :
    (∃ t, written = .ok t ∧ completeWrite s written p n = .next (t.retire p n)) ∨
    (∃ a, written = .error a ∧ completeWrite s written p n = .next (s.raiseFault (.romWrite a s.pc))) := by
  cases written with
  | ok t => exact .inl ⟨t, rfl, rfl⟩
  | error a => exact .inr ⟨a, rfl, rfl⟩

end Sys2Proof.Machine
end

