-- ==== Sys2Proof/Laws/Decode.lean ====
section
/-! SUPPORT. The operand tables read both ways, the byte order of words, and the eight RST targets. -/

namespace Sys2Proof

open Machine (word hiByte loByte)

@[simp] theorem reg8OfCode_code (r : Reg8) : reg8OfCode r.code = some r := by cases r <;> rfl

@[simp] theorem regPairOfCode_code (p : RegPair) : regPairOfCode p.code = p := by cases p <;> rfl

@[simp] theorem stackPairOfCode_code (q : StackPair) : stackPairOfCode q.code = q := by cases q <;> rfl

@[simp] theorem condOfCode_code (cc : Cond) : condOfCode cc.code = cc := by cases cc <;> rfl

/-! ## Words and their bytes (R12) -/

theorem word_toNat (hi lo : Byte) : (word hi lo).toNat = 256 * hi.toNat + lo.toNat := by
  have := lo.isLt
  simp only [word, BitVec.toNat_append]
  rw [Nat.shiftLeft_eq, Nat.mul_comm, ← Nat.two_pow_add_eq_or_of_lt this (i := 8)]

theorem hiByte_toNat (v : Addr) : (hiByte v).toNat = v.toNat / 256 := by
  have := v.isLt
  simp only [hiByte, BitVec.extractLsb'_toNat, Nat.shiftRight_eq_div_pow]
  omega

theorem loByte_toNat (v : Addr) : (loByte v).toNat = v.toNat % 256 := by
  simp only [loByte, BitVec.extractLsb'_toNat, Nat.shiftRight_eq_div_pow]
  omega

@[simp] theorem hiByte_word (hi lo : Byte) : hiByte (word hi lo) = hi := by
  have := lo.isLt
  apply BitVec.eq_of_toNat_eq
  rw [hiByte_toNat, word_toNat]
  omega

@[simp] theorem loByte_word (hi lo : Byte) : loByte (word hi lo) = lo := by
  have := lo.isLt
  apply BitVec.eq_of_toNat_eq
  rw [loByte_toNat, word_toNat]
  omega

@[simp] theorem word_hi_lo (v : Addr) : word (hiByte v) (loByte v) = v := by
  apply BitVec.eq_of_toNat_eq
  rw [word_toNat, hiByte_toNat, loByte_toNat]
  omega

/-- A well-formed RST target is y * 8 for the field y (R130). -/
theorem rstTarget_of_field (y : BitVec 3) : rstTargetOk (0b00#2 ++ y ++ 0b000#3) = true := by
  revert y; decide

/-- The eight RST targets. -/
theorem rstTarget_field (t : Byte) (h : rstTargetOk t = true) : ∃ y : BitVec 3, t = 0b00#2 ++ y ++ 0b000#3 := by
  refine ⟨fieldY t, ?_⟩
  revert t
  decide

end Sys2Proof
end

