-- ==== Sys2Proof/Laws/Flags.lean ====
section
/-! SUPPORT. The flag bits of F, and each ALU helper's result and flags as plain arithmetic. -/

namespace Sys2Proof.Machine

/-! ## The F byte -/

theorem packFlags_bits (g : FlagBits) :
    (packFlags g &&& 0xF0#8).getLsbD 7 = g.z ∧ (packFlags g &&& 0xF0#8).getLsbD 6 = g.n ∧
    (packFlags g &&& 0xF0#8).getLsbD 5 = g.h ∧ (packFlags g &&& 0xF0#8).getLsbD 4 = g.c ∧
    (packFlags g &&& 0xF0#8) &&& 0x0F#8 = 0#8 := by
  obtain ⟨z, n, h, c⟩ := g
  cases z <;> cases n <;> cases h <;> cases c <;> decide

/-- A write to F leaves its bits 3..0 at 0 (R35). -/
theorem maskF_low (v : Byte) : (v &&& 0xF0#8) &&& 0x0F#8 = 0#8 := by
  rw [BitVec.and_assoc]
  simp

/-- INC and DEC write Z, N and H and keep C (R306, R307). -/
theorem State.setZNH_bits (s : State) (r : StepResult) :
    (s.setZNH r).f.getLsbD 7 = r.z ∧ (s.setZNH r).f.getLsbD 6 = r.n ∧ (s.setZNH r).f.getLsbD 5 = r.h ∧
    (s.setZNH r).f.getLsbD 4 = s.f.getLsbD 4 ∧ (s.setZNH r).f &&& 0x0F#8 = 0#8 := by
  obtain ⟨res, z, n, h⟩ := r
  refine ⟨?_, ?_, ?_, ?_, maskF_low _⟩ <;> cases z <;> cases n <;> cases h <;>
    simp [State.setZNH, flagBit]

/-! ## Arithmetic -/

theorem lowNibble_eq (v : Byte) : lowNibble v = v.toNat % 16 := by
  simp only [lowNibble, BitVec.toNat_and, BitVec.toNat_ofNat]
  exact Nat.and_two_pow_sub_one_eq_mod v.toNat 4

theorem beq_zero_iff_toNat (v : Byte) : (v == 0#8) = decide (v.toNat = 0) := by
  by_cases h : v = 0#8
  · simp [h]
  · have : v.toNat ≠ 0 := fun h' => h (BitVec.eq_of_toNat_eq (by simpa using h'))
    simp [h, this]

/-- `Add8` (R300) in natural numbers. -/
theorem add8_spec (lhs rhs : Byte) (u cf : Bool) :
    (add8 lhs rhs u cf).res.toNat = (lhs.toNat + rhs.toNat + carryIn u cf) % 256 ∧
    (add8 lhs rhs u cf).flags =
      { z := decide ((lhs.toNat + rhs.toNat + carryIn u cf) % 256 = 0)
        n := false
        h := decide (lhs.toNat % 16 + rhs.toNat % 16 + carryIn u cf > 15)
        c := decide (lhs.toNat + rhs.toNat + carryIn u cf > 255) } := by
  simp [add8, lowNibble_eq, beq_zero_iff_toNat]

theorem carryIn_le_one (u cf : Bool) : carryIn u cf ≤ 1 := by
  cases u <;> cases cf <;> decide

/-- `Sub8` (R301) in integers. -/
theorem sub8_spec (lhs rhs : Byte) (u cf : Bool) :
    ((sub8 lhs rhs u cf).res.toNat : Int) = ((lhs.toNat : Int) - ((rhs.toNat : Int) + carryIn u cf)) % 256 ∧
    (sub8 lhs rhs u cf).flags =
      { z := decide (((lhs.toNat : Int) - ((rhs.toNat : Int) + carryIn u cf)) % 256 = 0)
        n := true
        h := decide (lhs.toNat % 16 < rhs.toNat % 16 + carryIn u cf)
        c := decide (lhs.toNat < rhs.toNat + carryIn u cf) } := by
  have e : (((BitVec.ofInt 8 ((lhs.toNat : Int) - ((rhs.toNat : Int) + carryIn u cf))).toNat : Nat) : Int) =
      ((lhs.toNat : Int) - ((rhs.toNat : Int) + carryIn u cf)) % 256 := by
    rw [BitVec.toNat_ofInt]
    omega
  refine ⟨e, ?_⟩
  simp only [sub8, beq_zero_iff_toNat, lowNibble_eq, FlagBits.mk.injEq, true_and, decide_eq_decide]
  refine ⟨?_, ?_, ?_⟩ <;> omega

/-- `Inc8` (R306) in natural numbers. -/
theorem inc8_spec (v : Byte) :
    inc8 v = { res := v + 1#8, z := decide (v.toNat = 255), n := false, h := decide (v.toNat % 16 = 15) } := by
  have hv := v.isLt
  simp only [inc8, beq_zero_iff_toNat, lowNibble_eq, BitVec.toNat_add, BitVec.toNat_ofNat, StepResult.mk.injEq,
    true_and, decide_eq_decide]
  omega

/-- `Dec8` (R307) in natural numbers. -/
theorem dec8_spec (v : Byte) :
    dec8 v = { res := v - 1#8, z := decide (v.toNat = 1), n := true, h := decide (v.toNat % 16 = 0) } := by
  have hv := v.isLt
  simp only [dec8, beq_zero_iff_toNat, lowNibble_eq, BitVec.toNat_sub, BitVec.toNat_ofNat, StepResult.mk.injEq,
    true_and, decide_eq_decide]
  omega

end Sys2Proof.Machine
end

