-- ==== Sys2Proof/Laws/Exec.lean ====
section
/-! SUPPORT. Everything an instruction can do, said once: `exec` always answers a next state, in which the instruction
either raised a fault, with nothing else changed, or completed, with the frame below. -/

namespace Sys2Proof.Machine

/-- What holds after every completed instruction, whatever it computes. -/
structure Completed (i : Instr) (s t : State) : Prop where
  fault : t.fault = s.fault
  launch : t.launch = s.launch
  bank : t.bank = s.bank
  clk : t.clk = s.clk + costRow s i s.launch.cycleTable
  pc : redirects s i = false → t.pc = s.pc + BitVec.ofNat 16 i.length
  ime : i ≠ .ei → i ≠ .di → t.ime = s.ime
  sp : writesSp s i = false → t.sp = s.sp
  f : writesF i = false → t.f = s.f
  low : s.f &&& 0x0F#8 = 0#8 → t.f &&& 0x0F#8 = 0#8
  ram : storesAtHL i = false → pushes s i = false → t.ram = s.ram
  wf : s.ram.wf → t.ram.wf
  scanline : ramRead t.ram 0xFF44 = ramRead s.ram 0xFF44 ∨ ramRead t.ram 0xFF44 = 0x00#8

/-- A byte write leaves the scanline byte, or stores 0 there (R73, R90). -/
theorem State.busWrite_scanline {s t : State} {a : Addr} {v : Byte} (h : s.busWrite a v = .ok t) :
    ramRead t.ram 0xFF44 = ramRead s.ram 0xFF44 ∨ ramRead t.ram 0xFF44 = 0x00#8 := by
  rcases s.busWrite_cases a v with ⟨-, -, h'⟩ | ⟨-, -, h'⟩ | ⟨i, hr, h'⟩ <;> rw [h] at h' <;> cases h'
  · exact .inl rfl
  · by_cases hi : i = 0xFF44#16
    · subst hi
      have ha := (route_scanline _ a).1 hr
      exact .inr (by simp [ha])
    · refine .inl (ramRead_ramWrite_ne _ _ _ _ ?_)
      intro h
      exact hi (BitVec.eq_of_toNat_eq h.symm)

theorem State.busWriteWord_scanline {s u : State} {a v : Addr} (h : s.busWriteWord a v = .ok u) :
    ramRead u.ram 0xFF44 = ramRead s.ram 0xFF44 ∨ ramRead u.ram 0xFF44 = 0x00#8 := by
  rcases s.busWriteWord_cases a v with ⟨w, h', -⟩ | ⟨t, u', h1, h2, h'⟩ <;> rw [h] at h' <;> cases h'
  rcases State.busWrite_scanline h2 with e | e
  · rw [e]; exact State.busWrite_scanline h1
  · exact .inr e

/-- Why a push fails: its first byte in the ROM window, or its second alone (R602, R606). -/
theorem State.push16_error {s : State} {v w : Addr} (h : s.push16 v = .error w) :
    (w = s.sp - 2#16 ∧ RomFaults s w) ∨ (w = s.sp - 1#16 ∧ ¬RomFaults s (s.sp - 2#16) ∧ RomFaults s w) := by
  rcases (s.setSp (s.sp - 2#16)).busWriteWord_cases (s.sp - 2#16) v with ⟨w', h', hp, hc⟩ | ⟨t, u, -, -, h'⟩ <;>
    rw [State.push16, h'] at h <;> cases h
  have e : s.sp - 2#16 + 1#16 = s.sp - 1#16 := by bv_omega
  simp only [State.route, State.setSp_launch, e] at hp hc
  rcases hc with ⟨rfl, hc⟩ | ⟨rfl, hn, hc⟩
  · exact .inl ⟨rfl, ((route_cart_iff _ _).1 hc).1, ((route_cart_iff _ _).1 hc).2, hp⟩
  · refine .inr ⟨rfl, fun h2 => hn ((route_cart_iff _ _).2 ⟨h2.1, h2.2.1⟩), ?_⟩
    exact ⟨((route_cart_iff _ _).1 hc).1, ((route_cart_iff _ _).1 hc).2, hp⟩

/-- How an instruction's step ends. -/
inductive ExecEnd (i : Instr) (s : State) : State → Prop where
  | unimplemented (op : Byte) (h : (encode i).head? = some op) (ha : Admitted s.launch op → False) :
      ExecEnd i s (s.raiseFault (.unimplementedOpcode op s.pc))
  | romWrite (a : Addr) (ha : RomFaults s a) (hi : storesAtHL i = true ∨ pushes s i = true) :
      ExecEnd i s (s.raiseFault (.romWrite a s.pc))
  | completed (t : State) (h : Completed i s t) : ExecEnd i s t

/-- The end of an instruction that writes no memory, from its effect `u` on the state. -/
theorem exec_end_of_complete {i : Instr} {s u : State} {p : Addr} {n : Nat}
    (he : exec i s = complete u p n) (hfault : u.fault = s.fault) (hlaunch : u.launch = s.launch)
    (hbank : u.bank = s.bank) (hclk : u.clk = s.clk) (hram : u.ram = s.ram)
    (hn : n = costRow s i s.launch.cycleTable) (hp : redirects s i = false → p = s.pc + BitVec.ofNat 16 i.length)
    (hime : i ≠ .ei → i ≠ .di → u.ime = s.ime) (hsp : writesSp s i = false → u.sp = s.sp)
    (hf : writesF i = false → u.f = s.f) (hlow : s.f &&& 0x0F#8 = 0#8 → u.f &&& 0x0F#8 = 0#8) :
    ∃ t, exec i s = .next t ∧ ExecEnd i s t :=
  ⟨_, he, .completed _ ⟨hfault, hlaunch, hbank, by simp [hclk, hn], hp, hime, hsp, hf, hlow,
    fun _ _ => hram, fun h => by simpa [hram] using h, .inl (by simp [hram])⟩⟩

/-- The end of an instruction that stores at HL: its effect `g` on the state after the write touches F alone. -/
theorem exec_end_of_store {i : Instr} {s : State} {v : Byte} {p : Addr} {n : Nat} (g : State → State)
    (hi : storesAtHL i = true) (he : exec i s = completeWrite s ((s.writeHL v).map g) p n)
    (hg : ∀ t, g t = { t with f := (g t).f })
    (hn : n = costRow s i s.launch.cycleTable) (hp : p = s.pc + BitVec.ofNat 16 i.length)
    (hf : writesF i = false → ∀ t, (g t).f = t.f)
    (hlow : ∀ t, t.f &&& 0x0F#8 = 0#8 → (g t).f &&& 0x0F#8 = 0#8) :
    ∃ t, exec i s = .next t ∧ ExecEnd i s t := by
  rw [he]
  cases hw : s.writeHL v with
  | error a =>
    have h := (State.busWrite_error_iff s s.hl a v).1 hw
    refine ⟨_, rfl, .romWrite a ?_ (.inl hi)⟩
    obtain ⟨rfl, hc, hpol⟩ := h
    exact ⟨((route_cart_iff _ _).1 hc).1, ((route_cart_iff _ _).1 hc).2, hpol⟩
  | ok u =>
    have hu := State.busWrite_ok hw
    have hsc := State.busWrite_scanline hw
    have hgu := hg u
    refine ⟨_, rfl, .completed _ ⟨?_, ?_, ?_, ?_, fun _ => hp, fun _ _ => ?_, fun _ => ?_, fun h => ?_, fun h => ?_,
      fun h => by simp [hi] at h, fun h => ?_, ?_⟩⟩ <;>
      simp only [State.retire_fault, State.retire_launch, State.retire_bank, State.retire_clk, State.retire_ime,
        State.retire_sp, State.retire_f, State.retire_ram, hn]
    · rw [hgu, hu.1]
    · rw [hgu, hu.1]
    · rw [hgu, hu.1]
    · rw [hgu, hu.1]
    · rw [hgu, hu.1]
    · rw [hgu, hu.1]
    · rw [hf h u, hu.1]
    · exact hlow u (by rw [hu.1]; exact h)
    · rw [hgu]; exact hu.2 h
    · rw [hgu]; exact hsc

/-- The end of an instruction that pushes. -/
theorem exec_end_of_push {i : Instr} {s : State} {v p : Addr} {n : Nat} (hi : pushes s i = true)
    (he : exec i s = completeWrite s (s.push16 v) p n) (hn : n = costRow s i s.launch.cycleTable)
    (hp : redirects s i = false → p = s.pc + BitVec.ofNat 16 i.length) (hsp : writesSp s i = true) : ∃ t, exec i s = .next t ∧ ExecEnd i s t := by
  rw [he]
  cases hw : s.push16 v with
  | error a =>
    refine ⟨_, rfl, .romWrite a ?_ (.inr hi)⟩
    rcases State.push16_error hw with ⟨-, h⟩ | ⟨-, -, h⟩ <;> exact h
  | ok u =>
    have hu := State.push16_ok hw
    have hsc := State.busWriteWord_scanline (s := s.setSp (s.sp - 2#16)) hw
    refine ⟨_, rfl, .completed _ ⟨?_, ?_, ?_, ?_, hp, fun _ _ => ?_, fun h => by simp [hsp] at h, fun _ => ?_,
      fun h => ?_, fun _ h => by simp [hi] at h, fun h => ?_, ?_⟩⟩ <;>
      simp only [State.retire_fault, State.retire_launch, State.retire_bank, State.retire_clk, State.retire_ime,
        State.retire_f, State.retire_ram, hn]
    · rw [hu.1]
    · rw [hu.1]
    · rw [hu.1]
    · rw [hu.1]
    · rw [hu.1]
    · rw [hu.1]
    · rw [hu.1]; exact h
    · exact hu.2 h
    · exact hsc

theorem cond_eq (s : State) (cc : Cond) : s.cond cc = conditionHolds s.f cc := by
  cases cc <;> rfl

/-- The end of an instruction the launch does not admit, or of a faulting opcode. -/
theorem exec_end_of_unimplemented {i : Instr} {s : State} {op : Byte} (he : exec i s = raiseUnimplemented op s)
    (h : (encode i).head? = some op) (ha : ¬Admitted s.launch op) : ∃ t, exec i s = .next t ∧ ExecEnd i s t :=
  ⟨_, he, .unimplemented op h ha⟩

theorem true_eq_false {p : Prop} (h : true = false) : p := by cases h

/-! ## Each instruction's end -/

theorem exec_end_ldHLN (n : Byte) (s : State) : ∃ t, exec (.ldHLN n) s = .next t ∧ ExecEnd (.ldHLN n) s t := by
  refine exec_end_of_store (v := n) (p := s.pc + 2#16) (n := s.launch.cycleTable.ldHLN) id rfl ?_ (fun _ => rfl) rfl rfl
    (fun _ _ => rfl) (fun _ h => h)
  show completeWrite s (s.writeHL n) _ _ = _
  rw [Except.map_id]
  rfl

theorem exec_end_ldHLR (r : Reg8) (s : State) : ∃ t, exec (.ldHLR r) s = .next t ∧ ExecEnd (.ldHLR r) s t := by
  refine exec_end_of_store (v := s.getReg r) (p := s.pc + 1#16) (n := s.launch.cycleTable.ldHLR) id rfl ?_ (fun _ => rfl)
    rfl rfl (fun _ _ => rfl) (fun _ h => h)
  show completeWrite s (s.writeHL (s.getReg r)) _ _ = _
  rw [Except.map_id]
  rfl

theorem exec_end_incHL (s : State) : ∃ t, exec (.incHL) s = .next t ∧ ExecEnd (.incHL) s t := by
  exact exec_end_of_store _ rfl rfl (fun _ => rfl) rfl rfl (fun h => true_eq_false h) fun _ _ => maskF_low _

theorem exec_end_decHL (s : State) : ∃ t, exec (.decHL) s = .next t ∧ ExecEnd (.decHL) s t := by
  exact exec_end_of_store _ rfl rfl (fun _ => rfl) rfl rfl (fun h => true_eq_false h) fun _ _ => maskF_low _

theorem exec_end_push (q : StackPair) (s : State) : ∃ t, exec (.push q) s = .next t ∧ ExecEnd (.push q) s t := by
  exact exec_end_of_push rfl rfl rfl (fun _ => rfl) rfl

theorem exec_end_call (nn : Addr) (s : State) : ∃ t, exec (.call nn) s = .next t ∧ ExecEnd (.call nn) s t := by
  exact exec_end_of_push rfl rfl rfl (fun h => true_eq_false h) rfl

theorem exec_end_rst (k : Byte) (s : State) : ∃ t, exec (.rst k) s = .next t ∧ ExecEnd (.rst k) s t := by
  exact exec_end_of_push rfl rfl rfl (fun h => true_eq_false h) rfl

theorem exec_end_nop (s : State) : ∃ t, exec (.nop) s = .next t ∧ ExecEnd (.nop) s t := by
  cases h : s.launch.admitNop
  · refine exec_end_of_unimplemented (op := 0x00#8) (if_neg (by simp [h])) rfl fun ha => ?_
    have := ha.2 (0x00#8, s.launch.admitNop) (by simp [optionalBytes]) rfl
    exact true_eq_false (this.symm.trans h)
  · exact exec_end_of_complete (u := s) (if_pos h) rfl rfl rfl rfl rfl rfl (fun _ => rfl)
      (fun _ _ => rfl) (fun _ => rfl) (fun _ => rfl) id

theorem exec_end_jrE (e : Byte) (s : State) : ∃ t, exec (.jrE e) s = .next t ∧ ExecEnd (.jrE e) s t := by
  cases h : s.launch.admitJr
  · refine exec_end_of_unimplemented (op := 0x18#8) (if_neg (by simp [h])) rfl fun ha => ?_
    have := ha.2 (0x18#8, s.launch.admitJr) (by simp [optionalBytes]) rfl
    exact true_eq_false (this.symm.trans h)
  · exact exec_end_of_complete (u := s) (if_pos h) rfl rfl rfl rfl rfl rfl
      (fun h => true_eq_false h) (fun _ _ => rfl) (fun _ => rfl) (fun _ => rfl) id

theorem exec_end_jpCc (cc : Cond) (nn : Addr) (s : State) : ∃ t, exec (.jpCc cc nn) s = .next t ∧ ExecEnd (.jpCc cc nn) s t := by
  cases h : s.launch.admitJpCc
  · refine exec_end_of_unimplemented (op := 0b110#3 ++ cc.code ++ 0b010#3) (if_neg (by simp [h])) rfl fun ha => ?_
    have := ha.2 (0b110#3 ++ cc.code ++ 0b010#3, s.launch.admitJpCc) (by cases cc <;> simp [optionalBytes, Cond.code]) rfl
    exact true_eq_false (this.symm.trans h)
  · cases hc : conditionHolds s.f cc
    · exact exec_end_of_complete (u := s) ((if_pos h).trans (if_neg (by rw [cond_eq, hc]; decide))) rfl rfl rfl rfl rfl
        (congrFun (if_neg (by rw [hc]; decide)) _).symm (fun _ => rfl) (fun _ _ => rfl) (fun _ => rfl) (fun _ => rfl) id
    · exact exec_end_of_complete (u := s) ((if_pos h).trans (if_pos (by rw [cond_eq]; exact hc))) rfl rfl rfl rfl rfl
        (congrFun (if_pos hc) _).symm (fun h => true_eq_false (hc.symm.trans h)) (fun _ _ => rfl) (fun _ => rfl) (fun _ => rfl) id

theorem exec_end_callCc (cc : Cond) (nn : Addr) (s : State) : ∃ t, exec (.callCc cc nn) s = .next t ∧ ExecEnd (.callCc cc nn) s t := by
  cases h : s.launch.admitCallCc
  · refine exec_end_of_unimplemented (op := 0b110#3 ++ cc.code ++ 0b100#3) (if_neg (by simp [h])) rfl fun ha => ?_
    have := ha.2 (0b110#3 ++ cc.code ++ 0b100#3, s.launch.admitCallCc) (by cases cc <;> simp [optionalBytes, Cond.code]) rfl
    exact true_eq_false (this.symm.trans h)
  · cases hc : conditionHolds s.f cc
    · exact exec_end_of_complete (u := s) ((if_pos h).trans (if_neg (by rw [cond_eq, hc]; decide))) rfl rfl rfl rfl rfl
        (congrFun (if_neg (by rw [hc]; decide)) _).symm (fun _ => rfl) (fun _ _ => rfl) (fun _ => rfl) (fun _ => rfl) id
    · exact exec_end_of_push (by show (s.launch.admitCallCc && conditionHolds s.f cc) = true; rw [h, hc]; rfl) ((if_pos h).trans (if_pos (by rw [cond_eq]; exact hc)))
        (congrFun (if_pos hc) _).symm (fun h => true_eq_false (hc.symm.trans h)) hc

theorem exec_end_jrCc (cc : Cond) (e : Byte) (s : State) : ∃ t, exec (.jrCc cc e) s = .next t ∧ ExecEnd (.jrCc cc e) s t := by
  cases hc : conditionHolds s.f cc
  · exact exec_end_of_complete (u := s) (if_neg (by rw [cond_eq, hc]; decide)) rfl rfl rfl rfl rfl
      (congrFun (if_neg (by rw [hc]; decide)) _).symm (fun _ => rfl) (fun _ _ => rfl) (fun _ => rfl) (fun _ => rfl) id
  · exact exec_end_of_complete (u := s) (if_pos (by rw [cond_eq]; exact hc)) rfl rfl rfl rfl rfl
      (congrFun (if_pos hc) _).symm (fun h => true_eq_false (hc.symm.trans h)) (fun _ _ => rfl) (fun _ => rfl) (fun _ => rfl) id

theorem exec_end_retCc (cc : Cond) (s : State) : ∃ t, exec (.retCc cc) s = .next t ∧ ExecEnd (.retCc cc) s t := by
  cases hc : conditionHolds s.f cc
  · exact exec_end_of_complete (u := s) (if_neg (by rw [cond_eq, hc]; decide)) rfl rfl rfl rfl rfl
      (congrFun (if_neg (by rw [hc]; decide)) _).symm (fun _ => rfl) (fun _ _ => rfl) (fun _ => rfl) (fun _ => rfl) id
  · exact exec_end_of_complete (u := s.popped) (if_pos (by rw [cond_eq]; exact hc)) rfl rfl rfl rfl rfl
      (congrFun (if_pos hc) _).symm (fun h => true_eq_false (hc.symm.trans h)) (fun _ _ => rfl)
      (fun h => true_eq_false (hc.symm.trans h)) (fun _ => rfl) id

theorem exec_end_pop (q : StackPair) (s : State) : ∃ t, exec (.pop q) s = .next t ∧ ExecEnd (.pop q) s t := by
  refine exec_end_of_complete (u := s.popped.setStackPair q s.popValue) rfl (by simp) (by simp) (by simp) (by simp) (by simp) rfl
    (fun _ => rfl) (fun _ _ => by simp) (fun h => true_eq_false h) (fun h => ?_) (fun h => ?_)
  · cases q <;> first | rfl | exact true_eq_false h
  · cases q <;> first | exact maskF_low _ | exact h

theorem exec_end_ldRpNN (p : RegPair) (nn : Addr) (s : State) : ∃ t, exec (.ldRpNN p nn) s = .next t ∧ ExecEnd (.ldRpNN p nn) s t := by
  refine exec_end_of_complete (u := s.setPair p nn) rfl (by simp) (by simp) (by simp) (by simp) (by simp) rfl
    (fun _ => rfl) (fun _ _ => by simp) (fun h => ?_) (fun _ => by simp) (by simp)
  cases p <;> first | rfl | exact true_eq_false h

theorem exec_end_incRp (p : RegPair) (s : State) : ∃ t, exec (.incRp p) s = .next t ∧ ExecEnd (.incRp p) s t := by
  refine exec_end_of_complete (u := s.setPair p (s.getPair p + 1#16)) rfl (by simp) (by simp) (by simp) (by simp) (by simp) rfl
    (fun _ => rfl) (fun _ _ => by simp) (fun h => ?_) (fun _ => by simp) (by simp)
  cases p <;> first | rfl | exact true_eq_false h

theorem exec_end_decRp (p : RegPair) (s : State) : ∃ t, exec (.decRp p) s = .next t ∧ ExecEnd (.decRp p) s t := by
  refine exec_end_of_complete (u := s.setPair p (s.getPair p - 1#16)) rfl (by simp) (by simp) (by simp) (by simp) (by simp) rfl
    (fun _ => rfl) (fun _ _ => by simp) (fun h => ?_) (fun _ => by simp) (by simp)
  cases p <;> first | rfl | exact true_eq_false h

theorem exec_end_ei (s : State) : ∃ t, exec (.ei) s = .next t ∧ ExecEnd (.ei) s t := by
  exact exec_end_of_complete (u := s.setIme true) rfl rfl rfl rfl rfl rfl rfl (fun _ => rfl) (fun h => absurd rfl h) (fun _ => rfl) (fun _ => rfl)
    id

theorem exec_end_di (s : State) : ∃ t, exec (.di) s = .next t ∧ ExecEnd (.di) s t := by
  exact exec_end_of_complete (u := s.setIme false) rfl rfl rfl rfl rfl rfl rfl (fun _ => rfl) (fun _ h => absurd rfl h) (fun _ => rfl)
    (fun _ => rfl) id

theorem exec_end_jp (nn : Addr) (s : State) : ∃ t, exec (.jp nn) s = .next t ∧ ExecEnd (.jp nn) s t := by
  exact exec_end_of_complete (u := s) rfl rfl rfl rfl rfl rfl rfl (fun h => true_eq_false h) (fun _ _ => rfl) (fun _ => rfl) (fun _ => rfl) id

theorem exec_end_ret (s : State) : ∃ t, exec (.ret) s = .next t ∧ ExecEnd (.ret) s t := by
  exact exec_end_of_complete (u := s.popped) rfl rfl rfl rfl rfl rfl rfl (fun h => true_eq_false h) (fun _ _ => rfl)
    (fun h => true_eq_false h) (fun _ => rfl) id

theorem exec_end_ldRN (r : Reg8) (n : Byte) (s : State) : ∃ t, exec (.ldRN r n) s = .next t ∧ ExecEnd (.ldRN r n) s t := by
  exact exec_end_of_complete (u := s.setReg r n) rfl (by simp) (by simp) (by simp) (by simp) (by simp) rfl
    (fun _ => rfl) (fun _ _ => by simp) (fun _ => by simp) (fun _ => by simp) (by simp)

theorem exec_end_ldRR (r k : Reg8) (s : State) : ∃ t, exec (.ldRR r k) s = .next t ∧ ExecEnd (.ldRR r k) s t := by
  exact exec_end_of_complete (u := s.setReg r (s.getReg k)) rfl (by simp) (by simp) (by simp) (by simp) (by simp) rfl
    (fun _ => rfl) (fun _ _ => by simp) (fun _ => by simp) (fun _ => by simp) (by simp)

theorem exec_end_ldRHL (r : Reg8) (s : State) : ∃ t, exec (.ldRHL r) s = .next t ∧ ExecEnd (.ldRHL r) s t := by
  exact exec_end_of_complete (u := s.setReg r s.readHL) rfl (by simp) (by simp) (by simp) (by simp) (by simp) rfl
    (fun _ => rfl) (fun _ _ => by simp) (fun _ => by simp) (fun _ => by simp) (by simp)

theorem exec_end_incR (r : Reg8) (s : State) : ∃ t, exec (.incR r) s = .next t ∧ ExecEnd (.incR r) s t := by
  exact exec_end_of_complete (u := (s.setReg r (inc8 (s.getReg r)).res).setZNH (inc8 (s.getReg r))) rfl
    (by simp) (by simp) (by simp) (by simp) (by simp) rfl (fun _ => rfl) (fun _ _ => by simp) (fun _ => by simp)
    (fun h => true_eq_false h) (fun _ => maskF_low _)

theorem exec_end_decR (r : Reg8) (s : State) : ∃ t, exec (.decR r) s = .next t ∧ ExecEnd (.decR r) s t := by
  exact exec_end_of_complete (u := (s.setReg r (dec8 (s.getReg r)).res).setZNH (dec8 (s.getReg r))) rfl
    (by simp) (by simp) (by simp) (by simp) (by simp) rfl (fun _ => rfl) (fun _ _ => by simp) (fun _ => by simp)
    (fun h => true_eq_false h) (fun _ => maskF_low _)

theorem exec_end_ldHLSPe (e : Byte) (s : State) : ∃ t, exec (.ldHLSPe e) s = .next t ∧ ExecEnd (.ldHLSPe e) s t := by
  exact exec_end_of_complete (u := (s.setHl (s.sp + sext16 e)).setFlags (spPlusFlags s.sp e)) rfl rfl rfl rfl rfl rfl rfl
    (fun _ => rfl) (fun _ _ => rfl) (fun _ => rfl) (fun h => true_eq_false h) (fun _ => maskF_low _)

theorem exec_end_addR (r : Reg8) (s : State) : ∃ t, exec (.addR r) s = .next t ∧ ExecEnd (.addR r) s t := by
  exact exec_end_of_complete rfl rfl rfl rfl rfl rfl rfl (fun _ => rfl) (fun _ _ => rfl) (fun _ => rfl) (fun h => true_eq_false h) (fun _ => maskF_low _)

theorem exec_end_addHL (s : State) : ∃ t, exec (.addHL) s = .next t ∧ ExecEnd (.addHL) s t := by
  exact exec_end_of_complete rfl rfl rfl rfl rfl rfl rfl (fun _ => rfl) (fun _ _ => rfl) (fun _ => rfl) (fun h => true_eq_false h) (fun _ => maskF_low _)

theorem exec_end_addN (n : Byte) (s : State) : ∃ t, exec (.addN n) s = .next t ∧ ExecEnd (.addN n) s t := by
  exact exec_end_of_complete rfl rfl rfl rfl rfl rfl rfl (fun _ => rfl) (fun _ _ => rfl) (fun _ => rfl) (fun h => true_eq_false h) (fun _ => maskF_low _)

theorem exec_end_adcR (r : Reg8) (s : State) : ∃ t, exec (.adcR r) s = .next t ∧ ExecEnd (.adcR r) s t := by
  exact exec_end_of_complete rfl rfl rfl rfl rfl rfl rfl (fun _ => rfl) (fun _ _ => rfl) (fun _ => rfl) (fun h => true_eq_false h) (fun _ => maskF_low _)

theorem exec_end_adcHL (s : State) : ∃ t, exec (.adcHL) s = .next t ∧ ExecEnd (.adcHL) s t := by
  exact exec_end_of_complete rfl rfl rfl rfl rfl rfl rfl (fun _ => rfl) (fun _ _ => rfl) (fun _ => rfl) (fun h => true_eq_false h) (fun _ => maskF_low _)

theorem exec_end_adcN (n : Byte) (s : State) : ∃ t, exec (.adcN n) s = .next t ∧ ExecEnd (.adcN n) s t := by
  exact exec_end_of_complete rfl rfl rfl rfl rfl rfl rfl (fun _ => rfl) (fun _ _ => rfl) (fun _ => rfl) (fun h => true_eq_false h) (fun _ => maskF_low _)

theorem exec_end_subR (r : Reg8) (s : State) : ∃ t, exec (.subR r) s = .next t ∧ ExecEnd (.subR r) s t := by
  exact exec_end_of_complete rfl rfl rfl rfl rfl rfl rfl (fun _ => rfl) (fun _ _ => rfl) (fun _ => rfl) (fun h => true_eq_false h) (fun _ => maskF_low _)

theorem exec_end_subHL (s : State) : ∃ t, exec (.subHL) s = .next t ∧ ExecEnd (.subHL) s t := by
  exact exec_end_of_complete rfl rfl rfl rfl rfl rfl rfl (fun _ => rfl) (fun _ _ => rfl) (fun _ => rfl) (fun h => true_eq_false h) (fun _ => maskF_low _)

theorem exec_end_subN (n : Byte) (s : State) : ∃ t, exec (.subN n) s = .next t ∧ ExecEnd (.subN n) s t := by
  exact exec_end_of_complete rfl rfl rfl rfl rfl rfl rfl (fun _ => rfl) (fun _ _ => rfl) (fun _ => rfl) (fun h => true_eq_false h) (fun _ => maskF_low _)

theorem exec_end_sbcR (r : Reg8) (s : State) : ∃ t, exec (.sbcR r) s = .next t ∧ ExecEnd (.sbcR r) s t := by
  exact exec_end_of_complete rfl rfl rfl rfl rfl rfl rfl (fun _ => rfl) (fun _ _ => rfl) (fun _ => rfl) (fun h => true_eq_false h) (fun _ => maskF_low _)

theorem exec_end_sbcHL (s : State) : ∃ t, exec (.sbcHL) s = .next t ∧ ExecEnd (.sbcHL) s t := by
  exact exec_end_of_complete rfl rfl rfl rfl rfl rfl rfl (fun _ => rfl) (fun _ _ => rfl) (fun _ => rfl) (fun h => true_eq_false h) (fun _ => maskF_low _)

theorem exec_end_sbcN (n : Byte) (s : State) : ∃ t, exec (.sbcN n) s = .next t ∧ ExecEnd (.sbcN n) s t := by
  exact exec_end_of_complete rfl rfl rfl rfl rfl rfl rfl (fun _ => rfl) (fun _ _ => rfl) (fun _ => rfl) (fun h => true_eq_false h) (fun _ => maskF_low _)

theorem exec_end_andR (r : Reg8) (s : State) : ∃ t, exec (.andR r) s = .next t ∧ ExecEnd (.andR r) s t := by
  exact exec_end_of_complete rfl rfl rfl rfl rfl rfl rfl (fun _ => rfl) (fun _ _ => rfl) (fun _ => rfl) (fun h => true_eq_false h) (fun _ => maskF_low _)

theorem exec_end_andHL (s : State) : ∃ t, exec (.andHL) s = .next t ∧ ExecEnd (.andHL) s t := by
  exact exec_end_of_complete rfl rfl rfl rfl rfl rfl rfl (fun _ => rfl) (fun _ _ => rfl) (fun _ => rfl) (fun h => true_eq_false h) (fun _ => maskF_low _)

theorem exec_end_andN (n : Byte) (s : State) : ∃ t, exec (.andN n) s = .next t ∧ ExecEnd (.andN n) s t := by
  exact exec_end_of_complete rfl rfl rfl rfl rfl rfl rfl (fun _ => rfl) (fun _ _ => rfl) (fun _ => rfl) (fun h => true_eq_false h) (fun _ => maskF_low _)

theorem exec_end_xorR (r : Reg8) (s : State) : ∃ t, exec (.xorR r) s = .next t ∧ ExecEnd (.xorR r) s t := by
  exact exec_end_of_complete rfl rfl rfl rfl rfl rfl rfl (fun _ => rfl) (fun _ _ => rfl) (fun _ => rfl) (fun h => true_eq_false h) (fun _ => maskF_low _)

theorem exec_end_xorHL (s : State) : ∃ t, exec (.xorHL) s = .next t ∧ ExecEnd (.xorHL) s t := by
  exact exec_end_of_complete rfl rfl rfl rfl rfl rfl rfl (fun _ => rfl) (fun _ _ => rfl) (fun _ => rfl) (fun h => true_eq_false h) (fun _ => maskF_low _)

theorem exec_end_xorN (n : Byte) (s : State) : ∃ t, exec (.xorN n) s = .next t ∧ ExecEnd (.xorN n) s t := by
  exact exec_end_of_complete rfl rfl rfl rfl rfl rfl rfl (fun _ => rfl) (fun _ _ => rfl) (fun _ => rfl) (fun h => true_eq_false h) (fun _ => maskF_low _)

theorem exec_end_orR (r : Reg8) (s : State) : ∃ t, exec (.orR r) s = .next t ∧ ExecEnd (.orR r) s t := by
  exact exec_end_of_complete rfl rfl rfl rfl rfl rfl rfl (fun _ => rfl) (fun _ _ => rfl) (fun _ => rfl) (fun h => true_eq_false h) (fun _ => maskF_low _)

theorem exec_end_orHL (s : State) : ∃ t, exec (.orHL) s = .next t ∧ ExecEnd (.orHL) s t := by
  exact exec_end_of_complete rfl rfl rfl rfl rfl rfl rfl (fun _ => rfl) (fun _ _ => rfl) (fun _ => rfl) (fun h => true_eq_false h) (fun _ => maskF_low _)

theorem exec_end_orN (n : Byte) (s : State) : ∃ t, exec (.orN n) s = .next t ∧ ExecEnd (.orN n) s t := by
  exact exec_end_of_complete rfl rfl rfl rfl rfl rfl rfl (fun _ => rfl) (fun _ _ => rfl) (fun _ => rfl) (fun h => true_eq_false h) (fun _ => maskF_low _)

theorem exec_end_cpR (r : Reg8) (s : State) : ∃ t, exec (.cpR r) s = .next t ∧ ExecEnd (.cpR r) s t := by
  exact exec_end_of_complete rfl rfl rfl rfl rfl rfl rfl (fun _ => rfl) (fun _ _ => rfl) (fun _ => rfl) (fun h => true_eq_false h) (fun _ => maskF_low _)

theorem exec_end_cpHL (s : State) : ∃ t, exec (.cpHL) s = .next t ∧ ExecEnd (.cpHL) s t := by
  exact exec_end_of_complete rfl rfl rfl rfl rfl rfl rfl (fun _ => rfl) (fun _ _ => rfl) (fun _ => rfl) (fun h => true_eq_false h) (fun _ => maskF_low _)

theorem exec_end_cpN (n : Byte) (s : State) : ∃ t, exec (.cpN n) s = .next t ∧ ExecEnd (.cpN n) s t := by
  exact exec_end_of_complete rfl rfl rfl rfl rfl rfl rfl (fun _ => rfl) (fun _ _ => rfl) (fun _ => rfl) (fun h => true_eq_false h) (fun _ => maskF_low _)

/-- Each of the 45 faulting opcodes. -/
theorem exec_end_faulting (i : Instr) (s : State) (op : Byte) (he : exec i s = raiseUnimplemented op s)
    (h : encode i = [op]) (hm : op ∈ faultingBytes) : ∃ t, exec i s = .next t ∧ ExecEnd i s t :=
  exec_end_of_unimplemented he (by rw [h]; rfl) fun ha => ha.1 hm

/-- Every instruction ends in a next state, in one of the three ways of `ExecEnd`. -/
theorem exec_end (i : Instr) (s : State) : ∃ t, exec i s = .next t ∧ ExecEnd i s t := by
  cases i with
  | ldHLN n => exact exec_end_ldHLN n s
  | ldHLR r => exact exec_end_ldHLR r s
  | incHL => exact exec_end_incHL s
  | decHL => exact exec_end_decHL s
  | push q => exact exec_end_push q s
  | call nn => exact exec_end_call nn s
  | rst k => exact exec_end_rst k s
  | nop => exact exec_end_nop s
  | jrE e => exact exec_end_jrE e s
  | jpCc cc nn => exact exec_end_jpCc cc nn s
  | callCc cc nn => exact exec_end_callCc cc nn s
  | jrCc cc e => exact exec_end_jrCc cc e s
  | retCc cc => exact exec_end_retCc cc s
  | pop q => exact exec_end_pop q s
  | ldRpNN p nn => exact exec_end_ldRpNN p nn s
  | incRp p => exact exec_end_incRp p s
  | decRp p => exact exec_end_decRp p s
  | ei => exact exec_end_ei s
  | di => exact exec_end_di s
  | jp nn => exact exec_end_jp nn s
  | ret => exact exec_end_ret s
  | ldRN r n => exact exec_end_ldRN r n s
  | ldRR r k => exact exec_end_ldRR r k s
  | ldRHL r => exact exec_end_ldRHL r s
  | incR r => exact exec_end_incR r s
  | decR r => exact exec_end_decR r s
  | ldHLSPe e => exact exec_end_ldHLSPe e s
  | addR r => exact exec_end_addR r s
  | addHL => exact exec_end_addHL s
  | addN n => exact exec_end_addN n s
  | adcR r => exact exec_end_adcR r s
  | adcHL => exact exec_end_adcHL s
  | adcN n => exact exec_end_adcN n s
  | subR r => exact exec_end_subR r s
  | subHL => exact exec_end_subHL s
  | subN n => exact exec_end_subN n s
  | sbcR r => exact exec_end_sbcR r s
  | sbcHL => exact exec_end_sbcHL s
  | sbcN n => exact exec_end_sbcN n s
  | andR r => exact exec_end_andR r s
  | andHL => exact exec_end_andHL s
  | andN n => exact exec_end_andN n s
  | xorR r => exact exec_end_xorR r s
  | xorHL => exact exec_end_xorHL s
  | xorN n => exact exec_end_xorN n s
  | orR r => exact exec_end_orR r s
  | orHL => exact exec_end_orHL s
  | orN n => exact exec_end_orN n s
  | cpR r => exact exec_end_cpR r s
  | cpHL => exact exec_end_cpHL s
  | cpN n => exact exec_end_cpN n s
  | _ => exact exec_end_faulting _ s _ rfl rfl (by decide)

/-- Everything an enabled step can do: it always answers a next state. -/
theorem step_end (s : State) (h : Enabled s) : ∃ t, step s = .next t ∧ ExecEnd s.fetchInstr s t := by
  unfold step
  rw [h]
  exact exec_end _ _

/-- A step that answers a next state was enabled. -/
theorem enabled_of_step {s t : State} (h : step s = .next t) : Enabled s := by
  unfold step at h
  split at h
  · cases h
  · assumption

/-- The end of a step that answered a next state. -/
theorem step_next {s t : State} (h : step s = .next t) : ExecEnd s.fetchInstr s t := by
  obtain ⟨u, hu, he⟩ := step_end s (enabled_of_step h)
  rw [h] at hu
  cases hu
  exact he

end Sys2Proof.Machine
end

