-- ==== Sys2Proof/Laws/Fetch.lean ====
section
/-! SUPPORT. What a fetch reads: the opcode alone where it is not admitted, else exactly the instruction's bytes. -/

namespace Sys2Proof

open Machine

/-- What the launch with no flag admits, every launch admits (R134: a flag only adds). -/
theorem Instr.admitted_of_default (launch : Launch) (i : Instr) (h : i.admitted launchDefault = true) :
    i.admitted launch = true := by
  cases i <;> first | rfl | cases h

/-- Every byte is faulting, optional, or admitted by every launch (R138). -/
theorem opcode_partition : (List.range 256).all (fun k =>
    faultingBytes.contains (BitVec.ofNat 8 k) ||
    (optionalBytes launchDefault).any (fun p => p.1 == BitVec.ofNat 8 k) ||
    opcodeAdmitted launchDefault (BitVec.ofNat 8 k)) = true := by decide +kernel

/-- A faulting byte is never admitted (R135). -/
theorem opcodeAdmitted_faulting (launch : Launch) {op : Byte} (h : op ∈ faultingBytes) :
    opcodeAdmitted launch op = false := by
  have e : ∀ op ∈ faultingBytes, decodeOp op 0#8 0#8 ∈ faultingInstrs := by decide
  have f : ∀ i ∈ faultingInstrs, i.admitted launch = false := by
    intro i hi
    simp only [faultingInstrs, List.mem_cons, List.not_mem_nil, or_false] at hi
    rcases hi with rfl | rfl | rfl | rfl | rfl | rfl | rfl | rfl | rfl | rfl | rfl | rfl | rfl | rfl | rfl | rfl |
      rfl | rfl | rfl | rfl | rfl | rfl | rfl | rfl | rfl | rfl | rfl | rfl | rfl | rfl | rfl | rfl | rfl | rfl |
      rfl | rfl | rfl | rfl | rfl | rfl | rfl | rfl | rfl | rfl | rfl <;> rfl
  exact f _ (e op h)

/-- An optional byte is admitted as its flag says (R134). -/
theorem opcodeAdmitted_optional (launch : Launch) : ∀ p ∈ optionalBytes launch, opcodeAdmitted launch p.1 = p.2 := by
  intro p hp
  simp only [optionalBytes, List.mem_cons, List.not_mem_nil, or_false] at hp
  rcases hp with rfl | rfl | rfl | rfl | rfl | rfl | rfl | rfl | rfl | rfl
  · exact congrArg (Instr.admitted launch) (by decide : decodeOp 0x00#8 0#8 0#8 = .nop)
  · exact congrArg (Instr.admitted launch) (by decide : decodeOp 0x18#8 0#8 0#8 = .jrE 0#8)
  · exact congrArg (Instr.admitted launch) (by decide : decodeOp 0xC2#8 0#8 0#8 = .jpCc .nz 0#16)
  · exact congrArg (Instr.admitted launch) (by decide : decodeOp 0xCA#8 0#8 0#8 = .jpCc .z 0#16)
  · exact congrArg (Instr.admitted launch) (by decide : decodeOp 0xD2#8 0#8 0#8 = .jpCc .nc 0#16)
  · exact congrArg (Instr.admitted launch) (by decide : decodeOp 0xDA#8 0#8 0#8 = .jpCc .c 0#16)
  · exact congrArg (Instr.admitted launch) (by decide : decodeOp 0xC4#8 0#8 0#8 = .callCc .nz 0#16)
  · exact congrArg (Instr.admitted launch) (by decide : decodeOp 0xCC#8 0#8 0#8 = .callCc .z 0#16)
  · exact congrArg (Instr.admitted launch) (by decide : decodeOp 0xD4#8 0#8 0#8 = .callCc .nc 0#16)
  · exact congrArg (Instr.admitted launch) (by decide : decodeOp 0xDC#8 0#8 0#8 = .callCc .c 0#16)

/-- The decoder's admission is that of the spec's lists (R133, R134, R135). -/
theorem opcodeAdmitted_iff (launch : Launch) (op : Byte) : opcodeAdmitted launch op = true ↔ Admitted launch op := by
  constructor
  · intro h
    refine ⟨fun hf => ?_, fun p hp he => ?_⟩
    · rw [opcodeAdmitted_faulting launch hf] at h
      cases h
    · rw [← opcodeAdmitted_optional launch p hp, he, h]
  · rintro ⟨hf, ho⟩
    have hp := List.all_eq_true.1 opcode_partition op.toNat (List.mem_range.2 op.isLt)
    simp only [BitVec.ofNat_toNat, BitVec.setWidth_eq, Bool.or_eq_true, List.contains_iff_mem, List.any_eq_true,
      beq_iff_eq] at hp
    rcases hp with (hp | ⟨p, hp, he⟩) | hp
    · exact absurd hp hf
    · have : ∃ q ∈ optionalBytes launch, q.1 = p.1 := by
        simp only [optionalBytes, List.mem_cons, List.not_mem_nil, or_false] at hp
        rcases hp with rfl | rfl | rfl | rfl | rfl | rfl | rfl | rfl | rfl | rfl <;> simp [optionalBytes]
      obtain ⟨q, hq, hqp⟩ := this
      rw [← he, ← hqp, opcodeAdmitted_optional launch q hq]
      exact ho q hq (hqp.trans he)
    · exact Instr.admitted_of_default launch _ hp

theorem fetchLength_of_admitted {launch : Launch} {op : Byte} (h : Admitted launch op) :
    fetchLength launch op = instrLength op := if_pos ((opcodeAdmitted_iff launch op).2 h)

theorem fetchLength_of_not_admitted {launch : Launch} {op : Byte} (h : ¬Admitted launch op) :
    fetchLength launch op = 1 := if_neg fun h' => h ((opcodeAdmitted_iff launch op).1 h')

namespace Machine

/-- R136, R504: an opcode that faults is fetched alone. -/
theorem State.fetchBytes_of_not_admitted {s : State} (h : ¬Admitted s.launch (s.busRead s.pc)) :
    s.fetchBytes = [s.busRead s.pc] := by
  simp only [State.fetchBytes, fetchLength_of_not_admitted h]

/-- The instruction run at an opcode that faults, from its byte alone. -/
theorem State.fetchInstr_of_not_admitted {s : State} (h : ¬Admitted s.launch (s.busRead s.pc)) :
    s.fetchInstr = decodeOp (s.busRead s.pc) 0#8 0#8 := by
  simp only [State.fetchInstr, State.fetchBytes_of_not_admitted h, List.getD_cons_zero, List.getD_cons_succ,
    List.getD_nil]

/-- At an admitted opcode the fetch is by the instruction's length. -/
theorem State.fetchBytes_of_admitted {s : State} (h : Admitted s.launch (s.busRead s.pc)) :
    s.fetchBytes = match instrLength (s.busRead s.pc) with
      | 2 => [s.busRead s.pc, s.busRead (s.pc + 1#16)]
      | 3 => [s.busRead s.pc, s.busRead (s.pc + 1#16), s.busRead (s.pc + 2#16)]
      | _ => [s.busRead s.pc] := by
  rw [← fetchLength_of_admitted h]
  rfl

end Machine

end Sys2Proof
end

