-- ==== Sys2Proof/Laws/PerInstr.lean ====
section
/-! SUPPORT. The statements made per instruction. EncodeLength: a well-formed instruction's bytes are as many as its
format says, and its opcode byte alone determines that number (30_encoding R120, R122). -/

namespace Sys2Proof.Laws

def EncodeLength.Statement (i : Instr) : Prop :=
  i.wellFormed = true → (encode i).length = i.length ∧ ∀ op ∈ (encode i).head?, instrLength op = i.length

theorem EncodeLength.ldRN (r : Reg8) (n : Byte) : EncodeLength.Statement (.ldRN r n) := by
  cases r <;> exact fun _ => ⟨rfl, fun _ h => by cases h; rfl⟩

theorem EncodeLength.ldHLN (n : Byte) : EncodeLength.Statement (.ldHLN n) := by
  exact fun _ => ⟨rfl, fun _ h => by cases h; rfl⟩

theorem EncodeLength.ldRR (dst src : Reg8) : EncodeLength.Statement (.ldRR dst src) := by
  cases dst <;> cases src <;> exact fun _ => ⟨rfl, fun _ h => by cases h; rfl⟩

theorem EncodeLength.ldRHL (dst : Reg8) : EncodeLength.Statement (.ldRHL dst) := by
  cases dst <;> exact fun _ => ⟨rfl, fun _ h => by cases h; rfl⟩

theorem EncodeLength.ldHLR (src : Reg8) : EncodeLength.Statement (.ldHLR src) := by
  cases src <;> exact fun _ => ⟨rfl, fun _ h => by cases h; rfl⟩

theorem EncodeLength.ldRpNN (p : RegPair) (nn : Addr) : EncodeLength.Statement (.ldRpNN p nn) := by
  cases p <;> exact fun _ => ⟨rfl, fun _ h => by cases h; rfl⟩

theorem EncodeLength.addR (r : Reg8) : EncodeLength.Statement (.addR r) := by
  cases r <;> exact fun _ => ⟨rfl, fun _ h => by cases h; rfl⟩

theorem EncodeLength.addHL : EncodeLength.Statement .addHL := by
  exact fun _ => ⟨rfl, fun _ h => by cases h; rfl⟩

theorem EncodeLength.addN (n : Byte) : EncodeLength.Statement (.addN n) := by
  exact fun _ => ⟨rfl, fun _ h => by cases h; rfl⟩

theorem EncodeLength.adcR (r : Reg8) : EncodeLength.Statement (.adcR r) := by
  cases r <;> exact fun _ => ⟨rfl, fun _ h => by cases h; rfl⟩

theorem EncodeLength.adcHL : EncodeLength.Statement .adcHL := by
  exact fun _ => ⟨rfl, fun _ h => by cases h; rfl⟩

theorem EncodeLength.adcN (n : Byte) : EncodeLength.Statement (.adcN n) := by
  exact fun _ => ⟨rfl, fun _ h => by cases h; rfl⟩

theorem EncodeLength.subR (r : Reg8) : EncodeLength.Statement (.subR r) := by
  cases r <;> exact fun _ => ⟨rfl, fun _ h => by cases h; rfl⟩

theorem EncodeLength.subHL : EncodeLength.Statement .subHL := by
  exact fun _ => ⟨rfl, fun _ h => by cases h; rfl⟩

theorem EncodeLength.subN (n : Byte) : EncodeLength.Statement (.subN n) := by
  exact fun _ => ⟨rfl, fun _ h => by cases h; rfl⟩

theorem EncodeLength.sbcR (r : Reg8) : EncodeLength.Statement (.sbcR r) := by
  cases r <;> exact fun _ => ⟨rfl, fun _ h => by cases h; rfl⟩

theorem EncodeLength.sbcHL : EncodeLength.Statement .sbcHL := by
  exact fun _ => ⟨rfl, fun _ h => by cases h; rfl⟩

theorem EncodeLength.sbcN (n : Byte) : EncodeLength.Statement (.sbcN n) := by
  exact fun _ => ⟨rfl, fun _ h => by cases h; rfl⟩

theorem EncodeLength.andR (r : Reg8) : EncodeLength.Statement (.andR r) := by
  cases r <;> exact fun _ => ⟨rfl, fun _ h => by cases h; rfl⟩

theorem EncodeLength.andHL : EncodeLength.Statement .andHL := by
  exact fun _ => ⟨rfl, fun _ h => by cases h; rfl⟩

theorem EncodeLength.andN (n : Byte) : EncodeLength.Statement (.andN n) := by
  exact fun _ => ⟨rfl, fun _ h => by cases h; rfl⟩

theorem EncodeLength.xorR (r : Reg8) : EncodeLength.Statement (.xorR r) := by
  cases r <;> exact fun _ => ⟨rfl, fun _ h => by cases h; rfl⟩

theorem EncodeLength.xorHL : EncodeLength.Statement .xorHL := by
  exact fun _ => ⟨rfl, fun _ h => by cases h; rfl⟩

theorem EncodeLength.xorN (n : Byte) : EncodeLength.Statement (.xorN n) := by
  exact fun _ => ⟨rfl, fun _ h => by cases h; rfl⟩

theorem EncodeLength.orR (r : Reg8) : EncodeLength.Statement (.orR r) := by
  cases r <;> exact fun _ => ⟨rfl, fun _ h => by cases h; rfl⟩

theorem EncodeLength.orHL : EncodeLength.Statement .orHL := by
  exact fun _ => ⟨rfl, fun _ h => by cases h; rfl⟩

theorem EncodeLength.orN (n : Byte) : EncodeLength.Statement (.orN n) := by
  exact fun _ => ⟨rfl, fun _ h => by cases h; rfl⟩

theorem EncodeLength.cpR (r : Reg8) : EncodeLength.Statement (.cpR r) := by
  cases r <;> exact fun _ => ⟨rfl, fun _ h => by cases h; rfl⟩

theorem EncodeLength.cpHL : EncodeLength.Statement .cpHL := by
  exact fun _ => ⟨rfl, fun _ h => by cases h; rfl⟩

theorem EncodeLength.cpN (n : Byte) : EncodeLength.Statement (.cpN n) := by
  exact fun _ => ⟨rfl, fun _ h => by cases h; rfl⟩

theorem EncodeLength.incR (r : Reg8) : EncodeLength.Statement (.incR r) := by
  cases r <;> exact fun _ => ⟨rfl, fun _ h => by cases h; rfl⟩

theorem EncodeLength.incHL : EncodeLength.Statement .incHL := by
  exact fun _ => ⟨rfl, fun _ h => by cases h; rfl⟩

theorem EncodeLength.decR (r : Reg8) : EncodeLength.Statement (.decR r) := by
  cases r <;> exact fun _ => ⟨rfl, fun _ h => by cases h; rfl⟩

theorem EncodeLength.decHL : EncodeLength.Statement .decHL := by
  exact fun _ => ⟨rfl, fun _ h => by cases h; rfl⟩

theorem EncodeLength.incRp (p : RegPair) : EncodeLength.Statement (.incRp p) := by
  cases p <;> exact fun _ => ⟨rfl, fun _ h => by cases h; rfl⟩

theorem EncodeLength.decRp (p : RegPair) : EncodeLength.Statement (.decRp p) := by
  cases p <;> exact fun _ => ⟨rfl, fun _ h => by cases h; rfl⟩

theorem EncodeLength.ldHLSPe (e : Byte) : EncodeLength.Statement (.ldHLSPe e) := by
  exact fun _ => ⟨rfl, fun _ h => by cases h; rfl⟩

theorem EncodeLength.push (q : StackPair) : EncodeLength.Statement (.push q) := by
  cases q <;> exact fun _ => ⟨rfl, fun _ h => by cases h; rfl⟩

theorem EncodeLength.pop (q : StackPair) : EncodeLength.Statement (.pop q) := by
  cases q <;> exact fun _ => ⟨rfl, fun _ h => by cases h; rfl⟩

theorem EncodeLength.call (nn : Addr) : EncodeLength.Statement (.call nn) := by
  exact fun _ => ⟨rfl, fun _ h => by cases h; rfl⟩

theorem EncodeLength.rst (t : Byte) : EncodeLength.Statement (.rst t) := by
  intro hw
  obtain ⟨y, rfl⟩ := rstTarget_field t hw
  refine ⟨rfl, fun op h => ?_⟩
  cases h
  revert y
  decide

theorem EncodeLength.ret : EncodeLength.Statement .ret := by
  exact fun _ => ⟨rfl, fun _ h => by cases h; rfl⟩

theorem EncodeLength.jp (nn : Addr) : EncodeLength.Statement (.jp nn) := by
  exact fun _ => ⟨rfl, fun _ h => by cases h; rfl⟩

theorem EncodeLength.jrCc (cc : Cond) (e : Byte) : EncodeLength.Statement (.jrCc cc e) := by
  cases cc <;> exact fun _ => ⟨rfl, fun _ h => by cases h; rfl⟩

theorem EncodeLength.retCc (cc : Cond) : EncodeLength.Statement (.retCc cc) := by
  cases cc <;> exact fun _ => ⟨rfl, fun _ h => by cases h; rfl⟩

theorem EncodeLength.ei : EncodeLength.Statement .ei := by
  exact fun _ => ⟨rfl, fun _ h => by cases h; rfl⟩

theorem EncodeLength.di : EncodeLength.Statement .di := by
  exact fun _ => ⟨rfl, fun _ h => by cases h; rfl⟩

theorem EncodeLength.nop : EncodeLength.Statement .nop := by
  exact fun _ => ⟨rfl, fun _ h => by cases h; rfl⟩

theorem EncodeLength.jrE (e : Byte) : EncodeLength.Statement (.jrE e) := by
  exact fun _ => ⟨rfl, fun _ h => by cases h; rfl⟩

theorem EncodeLength.jpCc (cc : Cond) (nn : Addr) : EncodeLength.Statement (.jpCc cc nn) := by
  cases cc <;> exact fun _ => ⟨rfl, fun _ h => by cases h; rfl⟩

theorem EncodeLength.callCc (cc : Cond) (nn : Addr) : EncodeLength.Statement (.callCc cc nn) := by
  cases cc <;> exact fun _ => ⟨rfl, fun _ h => by cases h; rfl⟩

theorem EncodeLength.unimpl02 : EncodeLength.Statement .unimpl02 := by
  exact fun _ => ⟨rfl, fun _ h => by cases h; rfl⟩

theorem EncodeLength.unimpl07 : EncodeLength.Statement .unimpl07 := by
  exact fun _ => ⟨rfl, fun _ h => by cases h; rfl⟩

theorem EncodeLength.unimpl08 : EncodeLength.Statement .unimpl08 := by
  exact fun _ => ⟨rfl, fun _ h => by cases h; rfl⟩

theorem EncodeLength.unimpl09 : EncodeLength.Statement .unimpl09 := by
  exact fun _ => ⟨rfl, fun _ h => by cases h; rfl⟩

theorem EncodeLength.unimpl0A : EncodeLength.Statement .unimpl0A := by
  exact fun _ => ⟨rfl, fun _ h => by cases h; rfl⟩

theorem EncodeLength.unimpl0F : EncodeLength.Statement .unimpl0F := by
  exact fun _ => ⟨rfl, fun _ h => by cases h; rfl⟩

theorem EncodeLength.unimpl10 : EncodeLength.Statement .unimpl10 := by
  exact fun _ => ⟨rfl, fun _ h => by cases h; rfl⟩

theorem EncodeLength.unimpl12 : EncodeLength.Statement .unimpl12 := by
  exact fun _ => ⟨rfl, fun _ h => by cases h; rfl⟩

theorem EncodeLength.unimpl17 : EncodeLength.Statement .unimpl17 := by
  exact fun _ => ⟨rfl, fun _ h => by cases h; rfl⟩

theorem EncodeLength.unimpl19 : EncodeLength.Statement .unimpl19 := by
  exact fun _ => ⟨rfl, fun _ h => by cases h; rfl⟩

theorem EncodeLength.unimpl1A : EncodeLength.Statement .unimpl1A := by
  exact fun _ => ⟨rfl, fun _ h => by cases h; rfl⟩

theorem EncodeLength.unimpl1F : EncodeLength.Statement .unimpl1F := by
  exact fun _ => ⟨rfl, fun _ h => by cases h; rfl⟩

theorem EncodeLength.unimpl22 : EncodeLength.Statement .unimpl22 := by
  exact fun _ => ⟨rfl, fun _ h => by cases h; rfl⟩

theorem EncodeLength.unimpl27 : EncodeLength.Statement .unimpl27 := by
  exact fun _ => ⟨rfl, fun _ h => by cases h; rfl⟩

theorem EncodeLength.unimpl29 : EncodeLength.Statement .unimpl29 := by
  exact fun _ => ⟨rfl, fun _ h => by cases h; rfl⟩

theorem EncodeLength.unimpl2A : EncodeLength.Statement .unimpl2A := by
  exact fun _ => ⟨rfl, fun _ h => by cases h; rfl⟩

theorem EncodeLength.unimpl2F : EncodeLength.Statement .unimpl2F := by
  exact fun _ => ⟨rfl, fun _ h => by cases h; rfl⟩

theorem EncodeLength.unimpl32 : EncodeLength.Statement .unimpl32 := by
  exact fun _ => ⟨rfl, fun _ h => by cases h; rfl⟩

theorem EncodeLength.unimpl37 : EncodeLength.Statement .unimpl37 := by
  exact fun _ => ⟨rfl, fun _ h => by cases h; rfl⟩

theorem EncodeLength.unimpl39 : EncodeLength.Statement .unimpl39 := by
  exact fun _ => ⟨rfl, fun _ h => by cases h; rfl⟩

theorem EncodeLength.unimpl3A : EncodeLength.Statement .unimpl3A := by
  exact fun _ => ⟨rfl, fun _ h => by cases h; rfl⟩

theorem EncodeLength.unimpl3F : EncodeLength.Statement .unimpl3F := by
  exact fun _ => ⟨rfl, fun _ h => by cases h; rfl⟩

theorem EncodeLength.unimpl76 : EncodeLength.Statement .unimpl76 := by
  exact fun _ => ⟨rfl, fun _ h => by cases h; rfl⟩

theorem EncodeLength.unimplCB : EncodeLength.Statement .unimplCB := by
  exact fun _ => ⟨rfl, fun _ h => by cases h; rfl⟩

theorem EncodeLength.unimplD3 : EncodeLength.Statement .unimplD3 := by
  exact fun _ => ⟨rfl, fun _ h => by cases h; rfl⟩

theorem EncodeLength.unimplD9 : EncodeLength.Statement .unimplD9 := by
  exact fun _ => ⟨rfl, fun _ h => by cases h; rfl⟩

theorem EncodeLength.unimplDB : EncodeLength.Statement .unimplDB := by
  exact fun _ => ⟨rfl, fun _ h => by cases h; rfl⟩

theorem EncodeLength.unimplDD : EncodeLength.Statement .unimplDD := by
  exact fun _ => ⟨rfl, fun _ h => by cases h; rfl⟩

theorem EncodeLength.unimplE0 : EncodeLength.Statement .unimplE0 := by
  exact fun _ => ⟨rfl, fun _ h => by cases h; rfl⟩

theorem EncodeLength.unimplE2 : EncodeLength.Statement .unimplE2 := by
  exact fun _ => ⟨rfl, fun _ h => by cases h; rfl⟩

theorem EncodeLength.unimplE3 : EncodeLength.Statement .unimplE3 := by
  exact fun _ => ⟨rfl, fun _ h => by cases h; rfl⟩

theorem EncodeLength.unimplE4 : EncodeLength.Statement .unimplE4 := by
  exact fun _ => ⟨rfl, fun _ h => by cases h; rfl⟩

theorem EncodeLength.unimplE8 : EncodeLength.Statement .unimplE8 := by
  exact fun _ => ⟨rfl, fun _ h => by cases h; rfl⟩

theorem EncodeLength.unimplE9 : EncodeLength.Statement .unimplE9 := by
  exact fun _ => ⟨rfl, fun _ h => by cases h; rfl⟩

theorem EncodeLength.unimplEA : EncodeLength.Statement .unimplEA := by
  exact fun _ => ⟨rfl, fun _ h => by cases h; rfl⟩

theorem EncodeLength.unimplEB : EncodeLength.Statement .unimplEB := by
  exact fun _ => ⟨rfl, fun _ h => by cases h; rfl⟩

theorem EncodeLength.unimplEC : EncodeLength.Statement .unimplEC := by
  exact fun _ => ⟨rfl, fun _ h => by cases h; rfl⟩

theorem EncodeLength.unimplED : EncodeLength.Statement .unimplED := by
  exact fun _ => ⟨rfl, fun _ h => by cases h; rfl⟩

theorem EncodeLength.unimplF0 : EncodeLength.Statement .unimplF0 := by
  exact fun _ => ⟨rfl, fun _ h => by cases h; rfl⟩

theorem EncodeLength.unimplF2 : EncodeLength.Statement .unimplF2 := by
  exact fun _ => ⟨rfl, fun _ h => by cases h; rfl⟩

theorem EncodeLength.unimplF4 : EncodeLength.Statement .unimplF4 := by
  exact fun _ => ⟨rfl, fun _ h => by cases h; rfl⟩

theorem EncodeLength.unimplF9 : EncodeLength.Statement .unimplF9 := by
  exact fun _ => ⟨rfl, fun _ h => by cases h; rfl⟩

theorem EncodeLength.unimplFA : EncodeLength.Statement .unimplFA := by
  exact fun _ => ⟨rfl, fun _ h => by cases h; rfl⟩

theorem EncodeLength.unimplFC : EncodeLength.Statement .unimplFC := by
  exact fun _ => ⟨rfl, fun _ h => by cases h; rfl⟩

theorem EncodeLength.unimplFD : EncodeLength.Statement .unimplFD := by
  exact fun _ => ⟨rfl, fun _ h => by cases h; rfl⟩

end Sys2Proof.Laws
end

