-- ==== Sys2Proof/Tests/Slice0.lean ====
section
/-! SUPPORT. Tests: the WellFormed smoke test, a word of every constructor written out from the encodings of
30_encoding, one-step vectors of 95_test_vectors (the vector's name stands before each test), and for every statement
with hypotheses a witness that meets them, each clause at the edge of its range. -/

namespace Sys2Proof.Tests

open Sys2Proof Sys2Proof.Machine

/-! ## Helpers -/

/-- A state at `pc` with the bytes of an instruction there, every other element as at reset (part B's conventions: a
cartridge whose bytes read 0xFF, the instruction in RAM). -/
def start (pc : Addr) (bytes : List Byte) : State := { State.reset with pc := pc }.placeBytes pc bytes

/-- The same with no cartridge, so that 0x0000-0x7FFF is RAM. -/
def startRam (pc : Addr) (bytes : List Byte) : State :=
  { State.reset with pc := pc, launch := { launchDefault with cartPresent := false } }.placeBytes pc bytes

/-- Policy ignore. -/
def ignoring (s : State) : State := { s with launch := { s.launch with romWritePolicy := .ignore } }

/-- All four optional groups admitted. -/
def admitting (s : State) : State :=
  { s with launch := { s.launch with admitNop := true, admitJr := true, admitJpCc := true, admitCallCc := true } }

def withHl (s : State) (v : Addr) : State := s.setHl v

/-- A RAM byte before the step. -/
def withRam (s : State) (a : Addr) (v : Byte) : State := s.setRam a v

/-- Whether the step answers a next state with the property. -/
def after (s : State) (p : State → Bool) : Bool :=
  match step s with
  | .next t => p t
  | .fault _ => false
  | .refused _ => false

/-- The decoder's answer on a list of words. -/
def decodesTo (rows : List (Nat × Nat × Instr)) : Bool :=
  rows.all fun r => decide (decodeTableWord r.1 r.2.1 = some r.2.2)

/-! ## WellFormed -/

/-- The one check refuses a target that is no multiple of 8 and one above 0x38 (R130). -/
theorem test_wellformed_refuses_rst_target :
    (Instr.rst 0x01#8).wellFormed = false ∧ (Instr.rst 0x40#8).wellFormed = false ∧
    (Instr.rst 0x38#8).wellFormed = true ∧ (Instr.rst 0x00#8).wellFormed = true := by decide

/-- The decoder rejects by name only a sequence that ends too soon. -/
theorem test_decode_rejects_short_sequences :
    (match decode [] with | .error .noOpcode => true | _ => false) = true ∧
    (match decode [0x21#8, 0x34#8] with | .error (.missingOperand op) => op == 0x21#8 | _ => false) = true := by decide

/-! ## Decoding: a word of every constructor (R133, R134, R135) -/

/-- `00yyy110`, `00110110`, `01yyyzzz`, `01yyy110`, `01110zzz`, `00pp0001` (R200-R205). -/
theorem test_decode_loads : decodesTo
    [(16, 0b0100001000111110, .ldRN .a 0x42#8), (16, 0b1111111100000110, .ldRN .b 0xFF#8),
     (16, 0b1001100100110110, .ldHLN 0x99#8), (8, 0b01111000, .ldRR .a .b), (8, 0b01101100, .ldRR .l .h),
     (8, 0b01100110, .ldRHL .h), (8, 0b01110100, .ldHLR .h), (8, 0b01110111, .ldHLR .a),
     (24, 0b000100100011010000100001, .ldRpNN .hl 0x1234#16),
     (24, 0b111111111111111000110001, .ldRpNN .sp 0xFFFE#16)] = true := by decide

/-- `10yyyzzz`, `10yyy110` and `11yyy110`, y the operation (R129, R310-R333). -/
theorem test_decode_alu : decodesTo
    [(8, 0b10000011, .addR .e), (8, 0b10000110, .addHL), (16, 0b0101101011000110, .addN 0x5A#8),
     (8, 0b10001011, .adcR .e), (8, 0b10001110, .adcHL), (16, 0b0101101011001110, .adcN 0x5A#8),
     (8, 0b10010011, .subR .e), (8, 0b10010110, .subHL), (16, 0b0101101011010110, .subN 0x5A#8),
     (8, 0b10011011, .sbcR .e), (8, 0b10011110, .sbcHL), (16, 0b0101101011011110, .sbcN 0x5A#8),
     (8, 0b10100011, .andR .e), (8, 0b10100110, .andHL), (16, 0b0101101011100110, .andN 0x5A#8),
     (8, 0b10101011, .xorR .e), (8, 0b10101110, .xorHL), (16, 0b0101101011101110, .xorN 0x5A#8),
     (8, 0b10110011, .orR .e), (8, 0b10110110, .orHL), (16, 0b0101101011110110, .orN 0x5A#8),
     (8, 0b10111011, .cpR .e), (8, 0b10111110, .cpHL), (16, 0b0101101011111110, .cpN 0x5A#8)] = true := by decide

/-- `00yyy100`, `00yyy101`, `00pp0011`, `00pp1011`, `11111000` (R334-R340). -/
theorem test_decode_inc_dec : decodesTo
    [(8, 0b00000100, .incR .b), (8, 0b00111100, .incR .a), (8, 0b00110100, .incHL), (8, 0b00001101, .decR .c),
     (8, 0b00110101, .decHL), (8, 0b00000011, .incRp .bc), (8, 0b00110011, .incRp .sp), (8, 0b00011011, .decRp .de),
     (8, 0b00101011, .decRp .hl), (16, 0b1111111111111000, .ldHLSPe 0xFF#8)] = true := by decide

/-- `11pp0101`, `11pp0001`, 0xCD, `11yyy111`, 0xC9 (R402-R406). -/
theorem test_decode_stack : decodesTo
    [(8, 0b11000101, .push .bc), (8, 0b11110101, .push .af), (8, 0b11010001, .pop .de), (8, 0b11110001, .pop .af),
     (24, 0b000000110000000011001101, .call 0x0300#16), (8, 0b11101111, .rst 0x28#8), (8, 0b11000111, .rst 0x00#8),
     (8, 0b11111111, .rst 0x38#8), (8, 0b11001001, .ret)] = true := by decide

/-- 0xC3, `001cc000`, `110cc000`, 0xFB, 0xF3 and the optional groups (R451-R456, R500-R502). -/
theorem test_decode_control : decodesTo
    [(24, 0b000000010101000011000011, .jp 0x0150#16), (16, 0b1111101100100000, .jrCc .nz 0xFB#8),
     (16, 0b0111111100111000, .jrCc .c 0x7F#8), (8, 0b11000000, .retCc .nz), (8, 0b11011000, .retCc .c),
     (8, 0b11111011, .ei), (8, 0b11110011, .di), (8, 0b00000000, .nop), (16, 0b0001000000011000, .jrE 0x10#8),
     (24, 0b010000000000000011001010, .jpCc .z 0x4000#16), (24, 0b000001010000000011010100, .callCc .nc 0x0500#16)] = true :=
  by decide

/-- The faulting opcodes (R135), part 1. -/
theorem test_decode_faulting_1 : decodesTo
    [(8, 0x02, .unimpl02), (8, 0x07, .unimpl07), (8, 0x08, .unimpl08), (8, 0x09, .unimpl09), (8, 0x0A, .unimpl0A),
     (8, 0x0F, .unimpl0F), (8, 0x10, .unimpl10), (8, 0x12, .unimpl12), (8, 0x17, .unimpl17), (8, 0x19, .unimpl19),
     (8, 0x1A, .unimpl1A), (8, 0x1F, .unimpl1F), (8, 0x22, .unimpl22), (8, 0x27, .unimpl27), (8, 0x29, .unimpl29)] = true :=
  by decide

/-- The faulting opcodes (R135), part 2. -/
theorem test_decode_faulting_2 : decodesTo
    [(8, 0x2A, .unimpl2A), (8, 0x2F, .unimpl2F), (8, 0x32, .unimpl32), (8, 0x37, .unimpl37), (8, 0x39, .unimpl39),
     (8, 0x3A, .unimpl3A), (8, 0x3F, .unimpl3F), (8, 0x76, .unimpl76), (8, 0xCB, .unimplCB), (8, 0xD3, .unimplD3),
     (8, 0xD9, .unimplD9), (8, 0xDB, .unimplDB), (8, 0xDD, .unimplDD), (8, 0xE0, .unimplE0), (8, 0xE2, .unimplE2)] = true :=
  by decide

/-- The faulting opcodes (R135), part 3. -/
theorem test_decode_faulting_3 : decodesTo
    [(8, 0xE3, .unimplE3), (8, 0xE4, .unimplE4), (8, 0xE8, .unimplE8), (8, 0xE9, .unimplE9), (8, 0xEA, .unimplEA),
     (8, 0xEB, .unimplEB), (8, 0xEC, .unimplEC), (8, 0xED, .unimplED), (8, 0xF0, .unimplF0), (8, 0xF2, .unimplF2),
     (8, 0xF4, .unimplF4), (8, 0xF9, .unimplF9), (8, 0xFA, .unimplFA), (8, 0xFC, .unimplFC), (8, 0xFD, .unimplFD)] = true :=
  by decide

/-- Every one of the 256 bytes encodes back to itself: nothing is reserved, nothing shared (R138). -/
theorem test_every_opcode_byte_encodes_back :
    (List.range 256).all (fun k => (encode (decodeOp (BitVec.ofNat 8 k) 0x34#8 0x12#8)).head? ==
      some (BitVec.ofNat 8 k)) = true := by decide +kernel

/-! ## One step (95_test_vectors part B; the name of the vector stands first) -/

/-- B-loads-1. -/
theorem test_ldRN :
    after (start 0xC000#16 [0x06#8, 0x42#8])
      (fun t => t.b == 0x42#8 && t.pc == 0xC002#16 && t.clk == 8) = true := by decide

/-- B-loads-2. -/
theorem test_ldRN_keeps_flags :
    after ({ start 0xC000#16 [0x3E#8, 0x00#8] with f := 0xF0#8 })
      (fun t => t.a == 0x00#8 && t.f == 0xF0#8 && t.clk == 8) = true := by decide

/-- B-loads-3. -/
theorem test_ldHLN :
    after (withHl (start 0xC000#16 [0x36#8, 0x99#8]) 0xC123#16)
      (fun t => t.busRead 0xC123#16 == 0x99#8 && t.pc == 0xC002#16 && t.clk == 12) = true := by decide

/-- B-loads-4. -/
theorem test_ldHLN_scanline :
    after (withRam (withHl (start 0xC000#16 [0x36#8, 0x99#8]) 0xFF44#16) 0xFF44#16 0x07#8)
      (fun t => t.busRead 0xFF44#16 == 0x00#8 && t.clk == 12) = true := by decide

/-- B-loads-9. -/
theorem test_ldRR :
    after ({ start 0xC000#16 [0x78#8] with b := 0x12#8 })
      (fun t => t.a == 0x12#8 && t.pc == 0xC001#16 && t.clk == 4) = true := by decide

/-- B-loads-12. -/
theorem test_ldRHL_overwrites_hl :
    after (withRam (withHl (start 0xC000#16 [0x66#8]) 0xC800#16) 0xC800#16 0xD1#8)
      (fun t => t.hl == 0xD100#16 && t.clk == 8) = true := by decide

/-- B-loads-13. -/
theorem test_ldRHL_echo :
    after (withRam (withHl (start 0xC000#16 [0x7E#8]) 0xE800#16) 0xC800#16 0x3C#8)
      (fun t => t.a == 0x3C#8) = true := by decide

/-- B-loads-16. -/
theorem test_ldHLR :
    after (withHl (start 0xC000#16 [0x74#8]) 0xC0FF#16)
      (fun t => t.busRead 0xC0FF#16 == 0xC0#8 && t.clk == 8) = true := by decide

/-- B-loads-17. -/
theorem test_ldRpNN :
    after (start 0xC000#16 [0x21#8, 0x34#8, 0x12#8])
      (fun t => t.h == 0x12#8 && t.l == 0x34#8 && t.pc == 0xC003#16 && t.clk == 12) = true := by decide

/-- B-loads-19. -/
theorem test_ldRpNN_wraps :
    after (startRam 0xFFFE#16 [0x01#8, 0x77#8, 0xAB#8])
      (fun t => t.bc == 0xAB77#16 && t.pc == 0x0001#16) = true := by decide

/-- B-alu-28. -/
theorem test_addR :
    after ({ start 0xC000#16 [0x80#8] with a := 0x3A#8, b := 0xC6#8 })
      (fun t => t.a == 0x00#8 && t.f == 0xB0#8 && t.clk == 4) = true := by decide

/-- the example of R311. -/
theorem test_addHL :
    after (withRam (withHl { start 0xC000#16 [0x86#8] with a := 0x3A#8 } 0xC800#16) 0xC800#16 0xC6#8)
      (fun t => t.a == 0x00#8 && t.f == 0xB0#8 && t.clk == 8) = true := by decide

/-- B-alu-5. -/
theorem test_addN_ignores_carry :
    after ({ start 0xC000#16 [0xC6#8, 0x01#8] with a := 0x01#8, f := 0x10#8 })
      (fun t => t.a == 0x02#8 && t.f == 0x00#8 && t.clk == 8) = true := by decide

/-- the corner case of R313: A = 0xFF, v = 0x00, Cf = 1. -/
theorem test_adcR :
    after ({ start 0xC000#16 [0x88#8] with a := 0xFF#8, f := 0x10#8 })
      (fun t => t.a == 0x00#8 && t.f == 0xB0#8 && t.clk == 4) = true := by decide

/-- B-alu-33. -/
theorem test_adcHL :
    after (withRam (withHl { start 0xC000#16 [0x8E#8] with a := 0x0F#8, f := 0x10#8 } 0xC800#16) 0xC800#16 0x00#8)
      (fun t => t.a == 0x10#8 && t.f == 0x20#8 && t.clk == 8) = true := by decide

/-- B-alu-7. -/
theorem test_adcN :
    after ({ start 0xC000#16 [0xCE#8, 0x01#8] with a := 0x0E#8, f := 0x10#8 })
      (fun t => t.a == 0x10#8 && t.f == 0x20#8 && t.clk == 8) = true := by decide

/-- B-alu-30. -/
theorem test_subR :
    after ({ start 0xC000#16 [0x97#8] with a := 0x77#8 })
      (fun t => t.a == 0x00#8 && t.f == 0xC0#8 && t.clk == 4) = true := by decide

/-- the example of R317. -/
theorem test_subHL :
    after (withRam (withHl { start 0xC000#16 [0x96#8] with a := 0x3E#8 } 0xC800#16) 0xC800#16 0x3E#8)
      (fun t => t.a == 0x00#8 && t.f == 0xC0#8 && t.clk == 8) = true := by decide

/-- B-alu-12. -/
theorem test_subN :
    after ({ start 0xC000#16 [0xD6#8, 0x20#8] with a := 0x10#8 })
      (fun t => t.a == 0xF0#8 && t.f == 0x50#8 && t.clk == 8) = true := by decide

/-- B-alu-16 on a register (R319). -/
theorem test_sbcR :
    after ({ start 0xC000#16 [0x98#8] with a := 0x10#8, b := 0x0F#8, f := 0x10#8 })
      (fun t => t.a == 0x00#8 && t.f == 0xE0#8 && t.clk == 4) = true := by decide

/-- B-alu-14 on (HL) (R320). -/
theorem test_sbcHL :
    after (withRam (withHl { start 0xC000#16 [0x9E#8] with a := 0x3B#8, f := 0x10#8 } 0xC800#16) 0xC800#16 0x2A#8)
      (fun t => t.a == 0x10#8 && t.f == 0x40#8 && t.clk == 8) = true := by decide

/-- B-alu-15. -/
theorem test_sbcN :
    after ({ start 0xC000#16 [0xDE#8, 0xFF#8] with a := 0x00#8, f := 0x10#8 })
      (fun t => t.a == 0x00#8 && t.f == 0xF0#8 && t.clk == 8) = true := by decide

/-- B-alu-18 on a register (R322). -/
theorem test_andR :
    after ({ start 0xC000#16 [0xA0#8] with a := 0x5A#8, b := 0x3F#8 })
      (fun t => t.a == 0x1A#8 && t.f == 0x20#8 && t.clk == 4) = true := by decide

/-- B-alu-19 on (HL) (R323). -/
theorem test_andHL :
    after (withRam (withHl { start 0xC000#16 [0xA6#8] with a := 0x5A#8, f := 0x50#8 } 0xC800#16) 0xC800#16 0xA5#8)
      (fun t => t.a == 0x00#8 && t.f == 0xA0#8 && t.clk == 8) = true := by decide

/-- B-alu-18. -/
theorem test_andN :
    after ({ start 0xC000#16 [0xE6#8, 0x3F#8] with a := 0x5A#8 })
      (fun t => t.a == 0x1A#8 && t.f == 0x20#8 && t.clk == 8) = true := by decide

/-- B-alu-31. -/
theorem test_xorR :
    after ({ start 0xC000#16 [0xAF#8] with a := 0x77#8, f := 0x70#8 })
      (fun t => t.a == 0x00#8 && t.f == 0x80#8 && t.clk == 4) = true := by decide

/-- B-alu-21 on (HL) (R326). -/
theorem test_xorHL :
    after (withRam (withHl { start 0xC000#16 [0xAE#8] with a := 0x0F#8 } 0xC800#16) 0xC800#16 0xF0#8)
      (fun t => t.a == 0xFF#8 && t.f == 0x00#8 && t.clk == 8) = true := by decide

/-- B-alu-20. -/
theorem test_xorN :
    after ({ start 0xC000#16 [0xEE#8, 0xFF#8] with a := 0xFF#8, f := 0xF0#8 })
      (fun t => t.a == 0x00#8 && t.f == 0x80#8 && t.clk == 8) = true := by decide

/-- B-alu-23 on a register (R328). -/
theorem test_orR :
    after ({ start 0xC000#16 [0xB0#8] with a := 0x5A#8, b := 0x0F#8 })
      (fun t => t.a == 0x5F#8 && t.f == 0x00#8 && t.clk == 4) = true := by decide

/-- B-alu-23 on (HL) (R329). -/
theorem test_orHL :
    after (withRam (withHl { start 0xC000#16 [0xB6#8] with a := 0x5A#8 } 0xC800#16) 0xC800#16 0x0F#8)
      (fun t => t.a == 0x5F#8 && t.f == 0x00#8 && t.clk == 8) = true := by decide

/-- B-alu-22. -/
theorem test_orN :
    after ({ start 0xC000#16 [0xF6#8, 0x00#8] with a := 0x00#8, f := 0xF0#8 })
      (fun t => t.a == 0x00#8 && t.f == 0x80#8 && t.clk == 8) = true := by decide

/-- B-alu-32. -/
theorem test_cpR :
    after (start 0xC000#16 [0xBF#8]) (fun t => t.a == 0x00#8 && t.f == 0xC0#8 && t.clk == 4) = true := by decide

/-- B-alu-34. -/
theorem test_cpHL :
    after (withRam (withHl { start 0xC000#16 [0xBE#8] with a := 0x10#8 } 0xC800#16) 0xC800#16 0x11#8)
      (fun t => t.a == 0x10#8 && t.f == 0x70#8 && t.clk == 8) = true := by decide

/-- B-alu-27. -/
theorem test_cpN_ignores_carry :
    after ({ start 0xC000#16 [0xFE#8, 0x3C#8] with a := 0x3C#8, f := 0x10#8 })
      (fun t => t.a == 0x3C#8 && t.f == 0xC0#8 && t.clk == 8) = true := by decide

/-- B-incdec-1. -/
theorem test_incR_keeps_carry :
    after ({ start 0xC000#16 [0x04#8] with b := 0xFF#8, f := 0x10#8 })
      (fun t => t.b == 0x00#8 && t.f == 0xB0#8 && t.clk == 4) = true := by decide

/-- B-incdec-7. -/
theorem test_incHL :
    after (withRam (withHl { start 0xC000#16 [0x34#8] with f := 0x10#8 } 0xC800#16) 0xC800#16 0x0F#8)
      (fun t => t.busRead 0xC800#16 == 0x10#8 && t.f == 0x30#8 && t.clk == 12) = true := by decide

/-- B-incdec-9. -/
theorem test_incHL_scanline :
    after (withRam (withHl (start 0xC000#16 [0x34#8]) 0xFF44#16) 0xFF44#16 0x05#8)
      (fun t => t.busRead 0xFF44#16 == 0x00#8 && t.f == 0x00#8) = true := by decide

/-- B-incdec-5. -/
theorem test_decR :
    after (start 0xC000#16 [0x0D#8]) (fun t => t.c == 0xFF#8 && t.f == 0x60#8 && t.clk == 4) = true := by decide

/-- B-incdec-8. -/
theorem test_decHL :
    after (withHl (start 0xC000#16 [0x35#8]) 0xC800#16)
      (fun t => t.busRead 0xC800#16 == 0xFF#8 && t.f == 0x60#8 && t.clk == 12) = true := by decide

/-- B-incdec-11. -/
theorem test_incRp_carries :
    after ({ start 0xC000#16 [0x03#8] with c := 0xFF#8, f := 0xF0#8 })
      (fun t => t.bc == 0x0100#16 && t.f == 0xF0#8 && t.clk == 8) = true := by decide

/-- B-incdec-12. -/
theorem test_incRp_sp_wraps :
    after ({ start 0xC000#16 [0x33#8] with sp := 0xFFFF#16 })
      (fun t => t.sp == 0x0000#16 && t.clk == 8) = true := by decide

/-- B-incdec-13. -/
theorem test_decRp :
    after (start 0xC000#16 [0x1B#8]) (fun t => t.de == 0xFFFF#16 && t.f == 0x00#8 && t.clk == 8) = true := by decide

/-- B-ldhl-2. -/
theorem test_ldHLSPe_negative :
    after ({ start 0xC000#16 [0xF8#8, 0xFF#8] with sp := 0x0000#16, f := 0xC0#8 })
      (fun t => t.hl == 0xFFFF#16 && t.sp == 0x0000#16 && t.f == 0x00#8 && t.clk == 12) = true := by decide

/-- B-ldhl-6. -/
theorem test_ldHLSPe_carries :
    after ({ start 0xC000#16 [0xF8#8, 0xF1#8] with sp := 0x0F0F#16, f := 0xC0#8 })
      (fun t => t.hl == 0x0F00#16 && t.sp == 0x0F0F#16 && t.f == 0x30#8 && t.clk == 12) = true := by decide

/-- B-stack-2. -/
theorem test_push :
    after ({ start 0xC000#16 [0xF5#8] with sp := 0xD000#16, a := 0x9C#8, f := 0xB0#8 })
      (fun t => t.busRead 0xCFFE#16 == 0xB0#8 && t.busRead 0xCFFF#16 == 0x9C#8 && t.sp == 0xCFFE#16 &&
        t.clk == 16) = true := by decide

/-- B-stack-7. -/
theorem test_push_over_scanline :
    after ({ start 0xC000#16 [0xC5#8] with sp := 0xFF46#16, b := 0x12#8, c := 0x34#8 })
      (fun t => t.busRead 0xFF44#16 == 0x00#8 && t.busRead 0xFF45#16 == 0x12#8 &&
        t.sp == 0xFF44#16) = true := by decide

/-- B-stack-3. -/
theorem test_pop :
    after (withRam (withRam { start 0xC000#16 [0xD1#8] with sp := 0xFFFC#16 } 0xFFFC#16 0x34#8) 0xFFFD#16 0x12#8)
      (fun t => t.de == 0x1234#16 && t.sp == 0xFFFE#16 && t.clk == 12) = true := by decide

/-- B-stack-4. -/
theorem test_pop_af :
    after (withRam (withRam { start 0xC000#16 [0xF1#8] with sp := 0xC800#16 } 0xC800#16 0xFF#8) 0xC801#16 0x12#8)
      (fun t => t.a == 0x12#8 && t.f == 0xF0#8 && t.af == 0x12F0#16 && t.sp == 0xC802#16) = true := by decide

/-- B-calls-1. -/
theorem test_call :
    after (start 0xC200#16 [0xCD#8, 0x00#8, 0x03#8])
      (fun t => t.busRead 0xFFFC#16 == 0x03#8 && t.busRead 0xFFFD#16 == 0xC2#8 && t.pc == 0x0300#16 &&
        t.sp == 0xFFFC#16 && t.clk == 24) = true := by decide

/-- B-calls-2. -/
theorem test_call_wraps :
    after ({ startRam 0xFFFE#16 [0xCD#8, 0x00#8, 0x00#8] with sp := 0xD000#16 })
      (fun t => t.busRead 0xCFFE#16 == 0x01#8 && t.busRead 0xCFFF#16 == 0x00#8 && t.pc == 0x0000#16 &&
        t.sp == 0xCFFE#16) = true := by decide

/-- B-calls-3. -/
theorem test_rst :
    after ({ start 0xC150#16 [0xEF#8] with sp := 0xD000#16 })
      (fun t => t.busRead 0xCFFE#16 == 0x51#8 && t.busRead 0xCFFF#16 == 0xC1#8 && t.pc == 0x0028#16 &&
        t.sp == 0xCFFE#16 && t.clk == 16) = true := by decide

/-- B-calls-6. -/
theorem test_ret :
    after (withRam (withRam { start 0xC000#16 [0xC9#8] with sp := 0xFFFC#16 } 0xFFFC#16 0x03#8) 0xFFFD#16 0x02#8)
      (fun t => t.pc == 0x0203#16 && t.sp == 0xFFFE#16 && t.clk == 16) = true := by decide

/-- B-control-2. -/
theorem test_jp_to_itself :
    after (start 0xC000#16 [0xC3#8, 0x00#8, 0xC0#8]) (fun t => t.pc == 0xC000#16 && t.clk == 16) = true := by decide

/-- B-control-5. -/
theorem test_jrCc_taken :
    after ({ start 0xC100#16 [0x28#8, 0x80#8] with f := 0x80#8 })
      (fun t => t.pc == 0xC082#16 && t.clk == 12) = true := by decide

/-- B-control-4. -/
theorem test_jrCc_not_taken :
    after ({ start 0xC105#16 [0x20#8, 0xFB#8] with f := 0x80#8 })
      (fun t => t.pc == 0xC107#16 && t.clk == 8) = true := by decide

/-- B-control-11. -/
theorem test_retCc_taken :
    after (withRam (withRam { start 0xC000#16 [0xD8#8] with sp := 0xFFFC#16, f := 0x10#8 } 0xFFFC#16 0x03#8) 0xFFFD#16 0x02#8)
      (fun t => t.pc == 0x0203#16 && t.sp == 0xFFFE#16 && t.clk == 20) = true := by decide

/-- B-control-14. -/
theorem test_retCc_not_taken :
    after ({ start 0xC000#16 [0xD0#8] with sp := 0xC010#16, f := 0x10#8 })
      (fun t => t.pc == 0xC001#16 && t.sp == 0xC010#16 && t.clk == 8) = true := by decide

/-- B-system-1. -/
theorem test_ei :
    after (start 0xC000#16 [0xFB#8]) (fun t => t.ime && t.pc == 0xC001#16 && t.clk == 4) = true := by decide

/-- B-system-2. -/
theorem test_di :
    after ({ start 0xC000#16 [0xF3#8] with ime := true })
      (fun t => !t.ime && t.pc == 0xC001#16 && t.clk == 4) = true := by decide

/-- B-system-3. -/
theorem test_nop_not_admitted :
    after (start 0xC000#16 [0x00#8])
      (fun t => t.pc == 0xC000#16 && t.clk == 0 &&
        t.fault == some (.unimplementedOpcode 0x00#8 0xC000#16)) = true := by decide

/-- B-system-4. -/
theorem test_nop_admitted :
    after (admitting (start 0xC000#16 [0x00#8]))
      (fun t => t.pc == 0xC001#16 && t.clk == 4 && t.fault == none) = true := by decide

/-- B-system-5. -/
theorem test_jrE_not_admitted :
    after (start 0xC000#16 [0x18#8, 0x10#8])
      (fun t => t.pc == 0xC000#16 && t.fault == some (.unimplementedOpcode 0x18#8 0xC000#16)) = true := by decide

/-- B-system-6. -/
theorem test_jrE_admitted :
    after (admitting (start 0xC000#16 [0x18#8, 0x10#8]))
      (fun t => t.pc == 0xC012#16 && t.clk == 12) = true := by decide

/-- B-system-7. -/
theorem test_jpCc_taken :
    after (admitting { start 0xC000#16 [0xCA#8, 0x00#8, 0x40#8] with f := 0x80#8 })
      (fun t => t.pc == 0x4000#16 && t.clk == 16) = true := by decide

/-- B-system-9. -/
theorem test_jpCc_not_admitted :
    after (start 0xC000#16 [0xCA#8, 0x00#8, 0x40#8])
      (fun t => t.pc == 0xC000#16 && t.fault == some (.unimplementedOpcode 0xCA#8 0xC000#16)) = true := by decide

/-- B-system-10. -/
theorem test_callCc_taken :
    after (admitting (start 0xC300#16 [0xD4#8, 0x00#8, 0x05#8]))
      (fun t => t.busRead 0xFFFC#16 == 0x03#8 && t.busRead 0xFFFD#16 == 0xC3#8 && t.pc == 0x0500#16 &&
        t.sp == 0xFFFC#16 && t.clk == 24) = true := by decide

/-- B-system-11. -/
theorem test_callCc_not_taken :
    after (admitting { start 0xC300#16 [0xD4#8, 0x00#8, 0x05#8] with f := 0x10#8 })
      (fun t => t.pc == 0xC303#16 && t.sp == 0xFFFE#16 && t.clk == 12) = true := by decide

/-- B-fault-1 to B-fault-8 and the other faulting bytes (R135): each records itself and changes nothing else. -/
theorem test_faulting_opcodes :
    faultingBytes.all (fun op => after (start 0xC000#16 [op]) (fun t =>
      t == { start 0xC000#16 [op] with fault := some (.unimplementedOpcode op 0xC000#16) })) = true := by decide

/-- R136, R504: an optional opcode that is not admitted is fetched alone; admitted, with its operand bytes. -/
theorem test_fetch_reads_no_operand_of_an_unadmitted_opcode :
    (start 0xC000#16 [0x18#8, 0x10#8]).fetchBytes = [0x18#8] ∧
    (start 0xC000#16 [0xDC#8, 0x34#8, 0x12#8]).fetchBytes = [0xDC#8] ∧
    (admitting (start 0xC000#16 [0x18#8, 0x10#8])).fetchBytes = [0x18#8, 0x10#8] ∧
    (admitting (start 0xC000#16 [0xDC#8, 0x34#8, 0x12#8])).fetchBytes = [0xDC#8, 0x34#8, 0x12#8] ∧
    (start 0xC000#16 [0xCB#8, 0x10#8]).fetchBytes = [0xCB#8] := by decide

/-- B-loads-6. -/
theorem test_store_into_rom_faults :
    after (withHl (start 0xC000#16 [0x36#8, 0x01#8]) 0x2000#16)
      (fun t => t.pc == 0xC000#16 && t.clk == 0 &&
        t.fault == some (.romWrite 0x2000#16 0xC000#16)) = true := by decide

/-- B-loads-7. -/
theorem test_store_into_rom_ignored :
    after (withHl (ignoring (start 0xC000#16 [0x36#8, 0x01#8])) 0x2000#16)
      (fun t => t.busRead 0x2000#16 == 0xFF#8 && t.pc == 0xC002#16 && t.clk == 12 &&
        t.fault == none) = true := by decide

/-- B-stack-8. -/
theorem test_push_rolls_back :
    after ({ start 0xC000#16 [0xC5#8] with sp := 0x0001#16, b := 0x12#8, c := 0x34#8 })
      (fun t => t.busRead 0xFFFF#16 == 0x00#8 && t.sp == 0x0001#16 && t.pc == 0xC000#16 &&
        t.fault == some (.romWrite 0x0000#16 0xC000#16)) = true := by decide

/-- B-stack-9. -/
theorem test_push_first_byte_faults :
    after ({ start 0xC000#16 [0xC5#8] with sp := 0x8001#16, b := 0x12#8, c := 0x34#8 })
      (fun t => t.busRead 0x8000#16 == 0x00#8 && t.sp == 0x8001#16 &&
        t.fault == some (.romWrite 0x7FFF#16 0xC000#16)) = true := by decide

/-! ## The bus and the host -/

/-- A small ROM image: byte i is i + 0x10, for i below 8. -/
def smallRom : List Byte := [0x10#8, 0x11#8, 0x12#8, 0x13#8, 0x14#8, 0x15#8, 0x16#8, 0x17#8]

def banked (k : Nat) : State := { State.reset with bank := k, launch := { launchDefault with rom := smallRom } }

/-- R72 (B-mem-1, B-mem-2): BANK = 1 shows offset 0 at 0x4000, BANK = 0 a negative one, BANK = 2 one past it. -/
theorem test_bank_window :
    (banked 1).busRead 0x4005#16 = 0x15#8 ∧ (banked 0).busRead 0x4005#16 = 0xFF#8 ∧
    (banked 2).busRead 0x4005#16 = 0xFF#8 ∧ (banked 2).busRead 0x0005#16 = 0x15#8 ∧
    (banked 1).busRead 0x0008#16 = 0xFF#8 := by decide

/-- A state a run has left: S9's registers, on a faulted core. -/
def used : State :=
  { State.reset with pc := 0x4321#16, sp := 0x1234#16, clk := 500, fault := some (.unimplementedOpcode 0x76#8 0x4321#16) }

/-- The host (R45, R74, R701): a negative bank index is refused, writeDirect stores at 0xFF44, Init keeps FAULT. -/
theorem test_host_operations :
    hostAct (.setFirstBankIndex (-1)) State.reset = .refused ∧
    (match hostAct (.writeDirect 0xFF44#16 0x90#8) State.reset with
      | .done t => t.busRead 0xFF44#16 == 0x90#8
      | .refused => false) = true ∧
    hostAct (.writeDirect 0x7FFF#16 0x90#8) State.reset = .refused ∧
    (match hostAct .init used with
      | .done t => t.pc == 0x0100#16 && t.sp == 0xFFFE#16 && t.clk == 500 &&
          t.fault == some (.unimplementedOpcode 0x76#8 0x4321#16)
      | .refused => false) = true := by decide

/-- S8 through runToAddress (R711): JP to itself never leaves its target, so a budget ends the run. -/
theorem test_run_to_address :
    (match runToAddress hostStepsDefault 0xC000#16 none [] (start 0xC000#16 [0xC3#8, 0x00#8, 0xC0#8]) with
      | .reached t => t.clk == 0
      | _ => false) = true ∧
    (match runToAddress hostStepsDefault 0xC001#16 (some 32) [[], [], []]
        (start 0xC000#16 [0xC3#8, 0x00#8, 0xC0#8]) with
      | .budget t => t.clk == 32
      | _ => false) = true := by decide

/-- After reset with nothing placed, the empty ROM reads 0xFF, which is RST 0x38 (R405; notes/assumptions/5.md). -/
theorem test_first_step_after_reset :
    after State.reset (fun t => t.pc == 0x0038#16 && t.sp == 0xFFFC#16) = true := by decide

/-- `withFetchWord`: the very next step runs the word, from reset and from a bank window with no offset. -/
theorem test_withFetchWord :
    after (State.reset.withFetchWord 16 0x423E) (fun t => t.a == 0x42#8 && t.pc == 0x0102#16) = true ∧
    after (State.withFetchWord { State.reset with pc := 0x4000#16, bank := 0 } 16 0x423E)
      (fun t => t.a == 0x42#8 && t.pc == 0x4002#16) = true ∧
    after (State.withFetchWord { State.reset with pc := 0xFFFF#16 } 16 0x423E)
      (fun t => t.pc == 0x0001#16 && t.a == 0x42#8) = true := by decide

/-! ## Witnesses: states and operands that meet the hypotheses of the statements, each clause at an edge -/

/-- Well-formed instructions, the last RST target among them. -/
theorem witness_DecodeOfEncodeIsTheInstruction :
    (Instr.rst 0x38#8).wellFormed = true ∧ (Instr.ldRpNN .sp 0xFFFF#16).wellFormed = true := by decide

/-- An admitted opcode of three bytes across the top of the address space. -/
theorem witness_OpcodeByteAloneDeterminesLength :
    let s := start 0xFFFE#16 [0xC3#8, 0x50#8, 0x01#8]
    Admitted s.launch (s.busRead s.pc) := by decide +kernel

/-- An enabled state whose bytes at PC decode. -/
theorem witness_StepRunsTheDecodedInstruction :
    let s := start 0xFFFE#16 [0x3E#8, 0x42#8]
    Enabled s ∧ decode [s.busRead s.pc, s.busRead (s.pc + 1#16), s.busRead (s.pc + 2#16)] =
      .ok (.ldRN .a 0x42#8, [s.busRead 0x0000#16]) := ⟨rfl, rfl⟩

/-- An enabled state. -/
theorem witness_EnabledStepAlwaysGivesANextState :
    Enabled State.reset := by decide

/-- A faulted state, and a host operation done on it. -/
theorem witness_FaultIsTerminal :
    let s := { State.reset with fault := some (.romWrite 0x7FFF#16 0xC000#16) }
    s.fault = some (.romWrite 0x7FFF#16 0xC000#16) ∧ hostAct .init s = .done s := by decide

/-- A step that fails at decode, and one that fails at a write. -/
theorem witness_FaultingStepChangesOnlyFault :
    after (start 0xC000#16 [0x76#8]) (fun t => t.fault == some (.unimplementedOpcode 0x76#8 0xC000#16)) = true ∧
    after (withHl (start 0xC000#16 [0x77#8]) 0x7FFF#16)
      (fun t => t.fault == some (.romWrite 0x7FFF#16 0xC000#16)) = true := by decide

/-- A completed step under the table of R708, and a faulting one. -/
theorem witness_CompletedStepAddsItsCost :
    (start 0xC000#16 [0x40#8]).launch.cycleTable = cycleTableR708 ∧
    after (start 0xC000#16 [0x40#8]) (fun t => t.fault == none) = true ∧
    after (start 0xC000#16 [0x76#8]) (fun t => t.fault != none) = true := by decide

/-- A step that does not redirect at the top of the address space, and a jump not taken. -/
theorem witness_PcAdvancesByTheLength :
    let s := start 0xFFFF#16 [0x40#8]
    let j := { start 0xC000#16 [0x20#8, 0xFB#8] with f := 0x80#8 }
    after s (fun t => t.fault == none && !redirects s s.fetchInstr) = true ∧
    after j (fun t => t.fault == none && !redirects j j.fetchInstr) = true := by decide

/-- The first and the last faulting byte. -/
theorem witness_FaultingBytesRaiseUnimplemented :
    (let s := start 0xC000#16 [0x02#8]; Enabled s ∧ s.busRead s.pc ∈ faultingBytes) ∧
    (let s := start 0xC000#16 [0xFD#8]; Enabled s ∧ s.busRead s.pc ∈ faultingBytes) := by decide

/-- An optional byte not admitted, and the same byte admitted. -/
theorem witness_AdmissionDecidesUnimplemented :
    (let s := start 0xC000#16 [0x00#8]; Enabled s ∧ ¬Admitted s.launch (s.busRead s.pc)) ∧
    (let s := admitting (start 0xC000#16 [0x00#8]); Enabled s ∧ Admitted s.launch (s.busRead s.pc)) := by decide +kernel

/-- The last faulting row. -/
theorem witness_FaultingRowsTakeTheirFault :
    Instr.unimplFD ∈ faultingInstrs := by decide

/-- A RAM0 with bytes at both ends. -/
theorem witness_PowerOnMeetsTheInvariant :
    Memory.wf [(0x0000, 0x01#8), (0xFFFF, 0xFF#8)] := by decide

/-- A state with the invariant that steps, F and RAM full. -/
theorem witness_StepKeepsTheInvariant :
    let s := { start 0xC000#16 [0xF5#8] with f := 0xF0#8 }
    Inv s ∧ after s (fun _ => true) = true := by decide

/-- The reset state. -/
theorem witness_EveryRunKeepsTheInvariant :
    Inv State.reset := by decide

/-- A step. -/
theorem witness_BankAndRomAreFixed :
    after State.reset (fun _ => true) = true := by decide

/-- A step of an instruction that is neither EI nor DI, and one of EI. -/
theorem witness_ImeHasNoEffect :
    (let s := start 0xC000#16 [0x78#8]; after s (fun _ => true) = true ∧ s.fetchInstr ≠ .ei ∧ s.fetchInstr ≠ .di) ∧
    after (start 0xC000#16 [0xFB#8]) (fun t => t.ime) = true := by decide

/-- A step of an instruction that does not write SP: LD BC,nn, and RET NZ not taken. -/
theorem witness_SpWritersAreTheListed :
    (let s := start 0xC000#16 [0x01#8, 0x34#8, 0x12#8]; after s (fun _ => !writesSp s s.fetchInstr) = true) ∧
    (let s := { start 0xC000#16 [0xC0#8] with f := 0x80#8 }; after s (fun _ => !writesSp s s.fetchInstr) = true) := by
  decide

/-- A step of an instruction that does not write F: INC SP, and POP HL. -/
theorem witness_FlagWritersAreTheListed :
    (let s := start 0xC000#16 [0x33#8]; after s (fun _ => !writesF s.fetchInstr) = true) ∧
    (let s := start 0xC000#16 [0xE1#8]; after s (fun _ => !writesF s.fetchInstr) = true) := by decide

/-- A step of an instruction that writes no memory: LD A,(HL). -/
theorem witness_MemoryWritersAreTheListed :
    let s := start 0xC000#16 [0x7E#8]
    after s (fun _ => !storesAtHL s.fetchInstr && !pushes s s.fetchInstr) = true := by decide

/-- A step with a cartridge, a write into its window dropped, at its last byte. -/
theorem witness_CartridgeWindowIsReadOnly :
    let s := withHl (ignoring (start 0xC000#16 [0x77#8])) 0x7FFF#16
    s.launch.cartPresent = true ∧ 0x7FFF#16 < 0x8000#16 ∧ after s (fun t => t.fault == none) = true := by decide

/-- Each clause: the two ends of each window, an offset in the image and a negative one. -/
theorem witness_CartridgeReadIsTheBankedByte :
    (banked 1).launch.cartPresent = true ∧ (0x3FFF#16).toNat < 0x4000 ∧ 0x4000 ≤ (0x4000#16).toNat ∧
    0x4000 ≤ (0x7FFF#16).toNat ∧ (0x7FFF#16).toNat < 0x8000 ∧
    ((0x3FFF : Nat) : Int) = (((banked 1).bank : Int) - 1) * 0x4000 + (((0x7FFF#16).toNat : Int) - 0x4000) ∧
    (((banked 0).bank : Int) - 1) * 0x4000 + (((0x7FFF#16).toNat : Int) - 0x4000) < 0 := by decide

/-- 0x8000 with a cartridge, 0x0000 without one, and the two ends of the echo range. -/
theorem witness_RamReadFoldsTheEcho :
    ¬((0x8000#16).toNat < 0x8000 ∧ State.reset.launch.cartPresent = true) ∧
    ¬((0x0000#16).toNat < 0x8000 ∧ (startRam 0x0000#16 []).launch.cartPresent = true) ∧
    (0xE000 ≤ (0xE000#16).toNat ∧ (0xE000#16).toNat ≤ 0xFDFF) ∧ ¬(0xE000 ≤ (0xFE00#16).toNat ∧ (0xFE00#16).toNat ≤ 0xFDFF) := by
  decide

/-- The last address that raises, the first that does not, and a dropped write. -/
theorem witness_ByteWriteStoresAsTheBusSays :
    RomFaults State.reset 0x7FFF#16 ∧ ¬RomFaults State.reset 0x8000#16 ∧ ¬RomFaults (ignoring State.reset) 0x7FFF#16 := by
  decide

/-- Each clause at its ends: the writes complete, in the echo range, in 0xC000-0xDDFF, and outside both. -/
theorem witness_EchoRangeAliases :
    [0xE000#16, 0xFDFF#16, 0xC000#16, 0xDDFF#16, 0x8000#16, 0xBFFF#16, 0xDE00#16, 0xDFFF#16, 0xFE00#16, 0xFFFF#16].all
      (fun a => match State.reset.busWrite a 0x5A#8 with
        | .ok _ => true
        | .error _ => false) = true ∧
    [0x0000#16, 0x7FFF#16].all (fun a => match (startRam 0xC000#16 []).busWrite a 0x5A#8 with
        | .ok _ => true
        | .error _ => false) = true := by decide

/-- A word write across the top of the address space, and one across the start of the echo range. -/
theorem witness_WordsAreLittleEndian :
    (let s := startRam 0xC000#16 [];
      (match s.busWriteWord 0xFFFF#16 0x1234#16 with | .ok _ => true | .error _ => false) = true ∧
      s.route 0xFFFF#16 ≠ .cart ∧ s.route (0xFFFF#16 + 1#16) ≠ .cart ∧ 0xFFFF#16 + 1#16 ≠ 0xFF44#16) ∧
    (match State.reset.busWriteWord 0xDFFF#16 0x1234#16 with | .ok _ => true | .error _ => false) = true ∧
    State.reset.route 0xDFFF#16 ≠ .cart ∧ State.reset.route (0xDFFF#16 + 1#16) ≠ .cart ∧ 0xDFFF#16 ≠ 0xFF44#16 ∧
    0xDFFF#16 + 1#16 ≠ 0xFF44#16 ∧ 0xFFFF#16 ≠ 0xFF44#16 := by decide

/-- LD (HL),A onto the byte after itself, with an admitted opcode in A. -/
theorem witness_StoreIsSeenByTheNextFetch :
    let s := { withHl (start 0xC000#16 [0x77#8]) 0xC001#16 with a := 0x78#8 }
    Enabled s ∧ s.fetchInstr = .ldHLR .a ∧ s.hl = s.pc + 1#16 ∧ s.route s.hl ≠ .cart ∧ s.hl ≠ 0xFF44#16 ∧
    Admitted s.launch (s.getReg .a) := by decide +kernel

/-- Two flags. -/
theorem witness_FlagAccessorsIsolateTheirBit :
    Flag.z ≠ Flag.c := by decide

/-- A pair that is not SP. -/
theorem witness_LoadsIntoAPair :
    RegPair.hl ≠ RegPair.sp := by decide

/-- HL at the first byte outside the ROM window, and a dropped write. -/
theorem witness_StoresAtHL :
    (let s := withHl State.reset 0x8000#16; ¬RomFaults s s.hl) ∧
    (let s := withHl (ignoring State.reset) 0x7FFF#16; ¬RomFaults s s.hl) := by decide

/-- SP at its lowest with the low byte at 0x8000, and at 0 with the bytes at the top. -/
theorem witness_PushStoresThePair :
    PushAllowed { State.reset with sp := 0x8002#16 } ∧ PushAllowed { State.reset with sp := 0x0000#16 } ∧
    ¬PushAllowed { State.reset with sp := 0x8001#16 } := by decide

/-- A pair that is not AF. -/
theorem witness_PopLoadsThePair :
    StackPair.hl ≠ StackPair.af := by decide

/-- The power-on SP, and the lowest SP in RAM. -/
theorem witness_StackRoundTrips :
    (let s := State.reset;
      s.route (s.sp - 2#16) ≠ .cart ∧ s.route (s.sp - 1#16) ≠ .cart ∧ s.sp - 2#16 ≠ 0xFF44#16 ∧
      s.sp - 1#16 ≠ 0xFF44#16 ∧ s.f &&& 0x0F#8 = 0#8) ∧
    (let s := { State.reset with sp := 0x8002#16 };
      s.route (s.sp - 2#16) ≠ .cart ∧ s.route (s.sp - 1#16) ≠ .cart ∧ s.sp - 2#16 ≠ 0xFF44#16 ∧
      s.sp - 1#16 ≠ 0xFF44#16) := by decide

/-- SP at its lowest for a push. -/
theorem witness_CallAndRestartPushTheReturnAddress :
    PushAllowed { State.reset with sp := 0x8002#16 } := by decide

/-- A condition that holds and one that does not. -/
theorem witness_ReturnsPopThePc :
    conditionHolds 0x80#8 .z = true ∧ conditionHolds 0x80#8 .nz = false ∧ conditionHolds 0x10#8 .c = true ∧
    conditionHolds 0x10#8 .nc = false := by decide

/-- A launch that admits them, with a condition that holds and one that does not. -/
theorem witness_OptionalJumpsAndNopWhenAdmitted :
    let s := admitting State.reset
    s.launch.admitJr = true ∧ s.launch.admitJpCc = true ∧ s.launch.admitNop = true ∧ conditionHolds s.f .nz = true ∧
    conditionHolds s.f .z = false := by decide

/-- Taken with a push allowed, and not taken. -/
theorem witness_ConditionalCallWhenAdmitted :
    let s := admitting State.reset
    s.launch.admitCallCc = true ∧ conditionHolds s.f .nc = true ∧ PushAllowed s ∧ conditionHolds s.f .c = false := by
  decide

/-- The default launch admits none of the four. -/
theorem witness_OptionalRowsFaultUnlessAdmitted :
    State.reset.launch.admitNop = false ∧ State.reset.launch.admitJr = false ∧ State.reset.launch.admitJpCc = false ∧
    State.reset.launch.admitCallCc = false := by decide

/-- Each clause: a store at 0x7FFF; a push whose low byte, or only whose high byte, is in the window; the fault. -/
theorem witness_StoresIntoTheRomWindowFault :
    (let s := withHl State.reset 0x7FFF#16; storesAtHL .incHL = true ∧ RomFaults s s.hl) ∧
    (let s := { State.reset with sp := 0x8001#16 }; pushes s (.push .bc) = true ∧ RomFaults s (s.sp - 2#16)) ∧
    (let s := { State.reset with sp := 0x0001#16 };
      pushes s (.call 0x0000#16) = true ∧ ¬RomFaults s (s.sp - 2#16) ∧ RomFaults s (s.sp - 1#16)) ∧
    after (withHl (start 0xC000#16 [0x34#8]) 0x7FFF#16)
      (fun t => t.fault == some (.romWrite 0x7FFF#16 0xC000#16)) = true := by decide

/-- Each clause at its edge: -1 and 0; 0x7FFF and 0x8000 with a cartridge. -/
theorem witness_HostWritesBankAndMemory :
    (-1 : Int) < 0 ∧ (0 : Int) ≤ 0 ∧ (0x7FFF#16 < 0x8000#16 ∧ State.reset.launch.cartPresent = true) ∧
    ¬(0x8000#16 < 0x8000#16 ∧ State.reset.launch.cartPresent = true) := by decide

/-- Both clauses: the reset state; after a step, and after a fault. -/
theorem witness_LoadRomStoresTheImage :
    (State.reset.clk = 0 ∧ State.reset.fault = none) ∧ ({ State.reset with clk := 4 } : State).clk ≠ 0 ∧
    used.fault ≠ none := by decide

/-- Each clause: a set FAULT, PC at the target, a budget spent exactly, and one cycle of it left. -/
theorem witness_RunToAddressEndings :
    used.fault = some (.unimplementedOpcode 0x76#8 0x4321#16) ∧
    State.reset.fault = none ∧ State.reset.pc = 0x0100#16 ∧ State.reset.pc ≠ 0x0101#16 ∧
    0 ≤ State.reset.clk ∧ State.reset.clk < 1 := by decide

/-- Steps that write 0xFF44 and that leave it. -/
theorem witness_ScanlineByteIsKeptOrCleared :
    after (withHl (start 0xC000#16 [0x77#8]) 0xFF44#16) (fun t => t.fault == none) = true ∧
    after State.reset (fun _ => true) = true := by decide

/-- A step. -/
theorem witness_ClockIsNotRead : after (start 0xC000#16 [0x76#8]) (fun _ => true) = true := by decide

/-- CLK grows over a run of a step and a host action. -/
theorem witness_ClockNeverDecreases :
    (runSession hostStepsDefault [.step, .host (.writeDirect 0xFF44#16 0x90#8)] State.reset).clk = 16 := by decide

/-- HL at the first byte outside the ROM window, and a dropped write. -/
theorem witness_IncDecAtHLKeepsCarry :
    (let s := withHl State.reset 0x8000#16; ¬RomFaults s s.hl) ∧
    (let s := withHl (ignoring State.reset) 0x7FFF#16; ¬RomFaults s s.hl) := by decide

/-- A pair that is not SP. -/
theorem witness_IncDecPairWritesNoFlag : RegPair.bc ≠ RegPair.sp := by decide

/-- A condition that holds and one that does not. -/
theorem witness_JumpsSetThePc : conditionHolds 0x90#8 .c = true ∧ conditionHolds 0x60#8 .z = false := by decide

end Sys2Proof.Tests
end

/-! The rules of the state (10_state): registers and flags, power-on, the invariant, and what a step and a run keep or
write. One step is taken apart by `step_next`, one host operation by `HostEnd`, a run by `runSession_induction`. -/

section

namespace Sys2Proof.Machine

/-! ## The words of the table -/

/-- Settles O4: the codes by computation, and each row by running the decoder on its word. -/
theorem tableWordsDecode : Obligations.TableWordsDecode :=
  ⟨rfl, rfl, rfl, rfl, by decide⟩

/-! ## Registers and flags -/

/-- Masking with 0xF0 keeps exactly the bits from 4 up. -/
theorem getLsbD_maskF (v : Byte) (k : Nat) : (v &&& 0xF0#8).getLsbD k = (decide (4 ≤ k) && v.getLsbD k) := by
  by_cases hk : k < 8
  · have hmask : ∀ j < 8, (0xF0#8).getLsbD j = decide (4 ≤ j) := by decide
    rw [BitVec.getLsbD_and, hmask k hk, Bool.and_comm]
  · rw [BitVec.getLsbD_of_ge _ _ (not_lt.1 hk), BitVec.getLsbD_of_ge _ _ (not_lt.1 hk), Bool.and_false]

/-- AF drops the low nibble that a write to F drops (10_state R35, R37). -/
theorem word_hi_lo_maskF (v : Addr) : word (hiByte v) (loByte v &&& 0xF0#8) = v &&& 0xFFF0#16 := by
  have hmask : 0xFFF0#16 = word 0xFF#8 0xF0#8 := by decide
  have hhi : hiByte v &&& 0xFF#8 = hiByte v := BitVec.and_allOnes
  calc word (hiByte v) (loByte v &&& 0xF0#8)
      = word (hiByte v &&& 0xFF#8) (loByte v &&& 0xF0#8) := by rw [hhi]
    _ = word (hiByte v) (loByte v) &&& word 0xFF#8 0xF0#8 := BitVec.and_append.symm
    _ = v &&& 0xFFF0#16 := by rw [word_hi_lo, hmask]

/-- Settles O32, from the byte order of words (`word_hi_lo`, `word_toNat`) and the mask on F. -/
theorem pairViewsRoundTrip : Obligations.PairViewsRoundTrip := fun s v =>
  ⟨word_hi_lo v, word_hi_lo v, word_hi_lo v, word_hi_lo_maskF v,
    hiByte_toNat v, loByte_toNat v, hiByte_toNat v, loByte_toNat v, hiByte_toNat v, loByte_toNat v,
    hiByte_toNat v, s.setAf_f v, word_toNat s.a s.f, word_toNat s.b s.c, word_toNat s.d s.e, word_toNat s.h s.l⟩

/-- A flag write is seen by the read of its own bit and by no other (10_state R36). -/
theorem State.getFlag_setFlag (s : State) (k j : Flag) (b : Bool) :
    (s.setFlag k b).getFlag j = if j = k then b else s.getFlag j := by
  cases k <;> cases j <;> simp [State.getFlag, flagBit]

/-- Settles O33: `State.getFlag_setFlag` for the same flag and for another, and the mask of every write to F. -/
theorem flagAccessorsIsolateTheirBit : Obligations.FlagAccessorsIsolateTheirBit := fun s k j b =>
  ⟨(s.getFlag_setFlag k k b).trans (if_pos rfl), fun h => (s.getFlag_setFlag k j b).trans (if_neg h), maskF_low _⟩

/-! ## Runs and host operations, said once -/

/-- Everything a host operation that is done can do (60_exceptions R615), guards included. -/
inductive HostEnd (s : State) : HostAction → State → Prop where
  | loadRom (bytes : List Byte) (hclk : s.clk = 0) (hfault : s.fault = none) :
      HostEnd s (.loadRom bytes) { s with launch := { s.launch with rom := bytes } }
  | setFirstBankIndex (index : Int) (h : 0 ≤ index) :
      HostEnd s (.setFirstBankIndex index) { s with bank := index.toNat }
  | init : HostEnd s .init s.init
  | writeDirect (a i : Addr) (v : Byte) (h : s.route a = .ram i) : HostEnd s (.writeDirect a v) (s.setRam i v)

theorem State.loadRom_eq_done {s : State} (bytes : List Byte) (hclk : s.clk = 0) (hfault : s.fault = none) :
    s.loadRom bytes = .done { s with launch := { s.launch with rom := bytes } } :=
  if_pos ⟨hclk, hfault⟩

theorem State.loadRom_eq_refused {s : State} (bytes : List Byte) (h : ¬(s.clk = 0 ∧ s.fault = none)) :
    s.loadRom bytes = .refused :=
  if_neg h

theorem hostEnd_of_done {act : HostAction} {s t : State} (h : hostAct act s = .done t) : HostEnd s act t := by
  cases act with
  | loadRom bytes =>
    by_cases hg : s.clk = 0 ∧ s.fault = none
    · cases (State.loadRom_eq_done bytes hg.1 hg.2).symm.trans h
      exact .loadRom bytes hg.1 hg.2
    · cases (State.loadRom_eq_refused bytes hg).symm.trans h
  | setFirstBankIndex index =>
    simp only [hostAct, State.setFirstBankIndex] at h
    split at h
    · cases h
    · cases h
      exact .setFirstBankIndex index (by omega)
  | init =>
    cases h
    exact .init
  | writeDirect a v =>
    simp only [hostAct, State.writeDirect] at h
    split at h
    · cases h
    · cases h
      exact .writeDirect a _ v ‹_›

/-- A property that every step and every admitted host operation keeps, every schedule keeps. -/
theorem runSession_induction {P : State → Prop} {hostSteps : HostAction → Bool}
    (hstep : ∀ s t, P s → step s = .next t → P t)
    (hhost : ∀ act s t, hostSteps act = true → P s → HostEnd s act t → P t) (events : List Event) (s : State)
    (hs : P s) : P (runSession hostSteps events s) := by
  induction events generalizing s with
  | nil => exact hs
  | cons event rest ih =>
    cases event with
    | step =>
      refine ih _ ?_
      unfold State.stepEvent
      split
      · exact hstep _ _ hs ‹_›
      · exact hs
      · exact hs
    | host act =>
      refine ih _ ?_
      unfold State.hostEvent
      split
      · split
        · exact hhost act _ _ ‹_› hs (hostEnd_of_done ‹_›)
        · exact hs
      · exact hs

/-- Settles O58: the two branches of `State.loadRom`. -/
theorem loadRomStoresTheImage : Obligations.LoadRomStoresTheImage := fun _ bytes =>
  ⟨State.loadRom_eq_done bytes, fun h => State.loadRom_eq_refused bytes (not_and_or.2 h)⟩

theorem State.init_keepsMemory (s : State) : KeepsMemory s s.init :=
  ⟨rfl, State.busRead_congr rfl rfl rfl⟩

theorem State.init_keepsRegs (s : State) : KeepsRegs s s.init [] :=
  fun r _ => State.getReg_congr rfl rfl rfl rfl rfl rfl rfl r

/-- Settles O56, field by field; F by its mask, and Init() by what bus and register reads depend on. -/
theorem powerOnAndInit : Obligations.PowerOnAndInit := by
  refine ⟨fun launch reg0 ime0 ram0 => ?_, fun s => ?_⟩
  · exact ⟨rfl, rfl, rfl, rfl, rfl, rfl, rfl, rfl, rfl, rfl, rfl, rfl, getLsbD_maskF reg0.f, rfl, rfl, rfl⟩
  · exact ⟨s.init, rfl, rfl, rfl, rfl, rfl, s.init_keepsRegs, ⟨rfl, rfl, rfl, rfl⟩, s.init_keepsMemory⟩

/-! ## The invariant -/

theorem inv_powerOn (launch : Launch) (reg0 : Reg0) (ime0 : Bool) {ram0 : Memory} (h : ram0.wf) :
    Inv (State.powerOn launch reg0 ime0 ram0) :=
  ⟨maskF_low reg0.f, h⟩

/-- Settles O14: reset is one of the power-on states. -/
theorem powerOnMeetsTheInvariant : Obligations.PowerOnMeetsTheInvariant :=
  ⟨fun launch reg0 ime0 _ => inv_powerOn launch reg0 ime0,
    inv_powerOn launchDefault reg0Default false ⟨.nil, fun _ hc => absurd hc List.not_mem_nil⟩⟩

theorem step_keeps_inv {s t : State} (hs : Inv s) (h : step s = .next t) : Inv t := by
  cases step_next h with
  | unimplemented => exact hs
  | romWrite => exact hs
  | completed _ hc => exact ⟨hc.low hs.1, hc.wf hs.2⟩

theorem hostEnd_keeps_inv {s t : State} {act : HostAction} (hs : Inv s) (h : HostEnd s act t) : Inv t := by
  cases h with
  | loadRom => exact hs
  | setFirstBankIndex => exact hs
  | init => exact hs
  | writeDirect a i v => exact ⟨hs.1, s.setRam_wf i v hs.2⟩

/-- Settles O15: a fault leaves F and RAM, and a completed instruction keeps both parts (`Completed.low`,
`Completed.wf`). -/
theorem stepKeepsTheInvariant : Obligations.StepKeepsTheInvariant :=
  fun _ _ => step_keeps_inv

/-- Settles O16, by induction on the schedule from the step and the host operations. -/
theorem everyRunKeepsTheInvariant : Obligations.EveryRunKeepsTheInvariant :=
  fun _ => runSession_induction (fun _ _ => step_keeps_inv) fun _ _ _ _ => hostEnd_keeps_inv

/-! ## BANK and the launch parameters -/

theorem step_bank_launch {s t : State} (h : step s = .next t) : t.bank = s.bank ∧ t.launch = s.launch := by
  cases step_next h with
  | unimplemented => exact ⟨rfl, rfl⟩
  | romWrite => exact ⟨rfl, rfl⟩
  | completed _ hc => exact ⟨hc.bank, hc.launch⟩

/-- The default HOST_STEPS admits `writeDirect` alone, which writes RAM alone. -/
theorem hostEnd_default_bank_launch {s t : State} {act : HostAction} (hact : hostStepsDefault act = true)
    (h : HostEnd s act t) : t.bank = s.bank ∧ t.launch = s.launch := by
  cases h with
  | loadRom => cases hact
  | setFirstBankIndex => cases hact
  | init => cases hact
  | writeDirect => exact ⟨rfl, rfl⟩

/-- Settles O17: by the frame of one step, and by induction on the schedule. -/
theorem bankAndRomAreFixed : Obligations.BankAndRomAreFixed := by
  refine ⟨fun _ _ => step_bank_launch, fun events s => ?_⟩
  refine runSession_induction (P := fun t => t.bank = s.bank ∧ t.launch = s.launch) ?_ ?_ events s ⟨rfl, rfl⟩
  · rintro u t ⟨hbank, hlaunch⟩ h
    obtain ⟨hb, hl⟩ := step_bank_launch h
    exact ⟨hb.trans hbank, hl.trans hlaunch⟩
  · rintro act u t hact ⟨hbank, hlaunch⟩ h
    obtain ⟨hb, hl⟩ := hostEnd_default_bank_launch hact h
    exact ⟨hb.trans hbank, hl.trans hlaunch⟩

/-! ## CLK -/

/-- What a step adds to CLK (10_state R44): the instruction's row where it completed, nothing where it failed. -/
theorem step_clk {s t : State} (h : step s = .next t) :
    t.clk = s.clk + if t.fault = none then costRow s s.fetchInstr s.launch.cycleTable else 0 := by
  cases step_next h with
  | unimplemented => rfl
  | romWrite => rfl
  | completed _ hc => rw [hc.fault, if_pos (enabled_of_step h), hc.clk]

theorem step_clk_le {s t : State} (h : step s = .next t) : s.clk ≤ t.clk :=
  (step_clk h).symm ▸ Nat.le_add_right _ _

/-- Every row of R708 is at least 4; an instruction with no row raises UnimplementedOpcode. -/
theorem four_le_costRow_or_unimplemented (i : Instr) (s : State) :
    4 ≤ costRow s i cycleTableR708 ∨ ∃ op, exec i s = raiseUnimplemented op s := by
  cases i with
  | ldRN | ldHLN | ldRR | ldRHL | ldHLR | ldRpNN | addR | addHL | addN | adcR | adcHL | adcN | subR | subHL | subN
  | sbcR | sbcHL | sbcN | andR | andHL | andN | xorR | xorHL | xorN | orR | orHL | orN | cpR | cpHL | cpN | incR | incHL
  | decR | decHL | incRp | decRp | ldHLSPe | push | pop | call | rst | ret | jp | ei | di | nop | jrE =>
    exact .inl (Nat.le_of_ble_eq_true rfl)
  | jrCc cc | retCc cc | jpCc cc | callCc cc =>
    left
    show 4 ≤ (if conditionHolds s.f cc then _ else _ : CycleTable → Nat) cycleTableR708
    cases conditionHolds s.f cc <;> exact Nat.le_of_ble_eq_true rfl
  | _ => exact .inr ⟨_, rfl⟩

theorem four_le_costRow_of_completed {s t : State} (h : step s = .next t) (ht : t.fault = none) :
    4 ≤ costRow s s.fetchInstr cycleTableR708 := by
  rcases four_le_costRow_or_unimplemented s.fetchInstr s with h4 | ⟨op, hop⟩
  · exact h4
  · have he : step s = raiseUnimplemented op s := by rw [step, enabled_of_step h, hop]
    cases he.symm.trans h
    cases ht

/-- Settles O9, from what a step adds to CLK and the least row of R708. -/
theorem completedStepAddsItsCost : Obligations.CompletedStepAddsItsCost := by
  intro s t _ h
  have hclk := step_clk h
  refine ⟨fun ht => ?_, fun ht => by rw [hclk, if_neg ht, Nat.add_zero]⟩
  rw [if_pos ht] at hclk
  refine ⟨hclk, fun htable => ?_⟩
  rw [hclk, htable]
  exact Nat.add_le_add_left (four_le_costRow_of_completed h ht) _

theorem hostEnd_clk {s t : State} {act : HostAction} (h : HostEnd s act t) : t.clk = s.clk := by
  cases h <;> rfl

/-- Settles O18, by induction on the schedule: a step adds to CLK and a host operation leaves it. -/
theorem clockNeverDecreases : Obligations.ClockNeverDecreases := by
  intro hostSteps events s
  exact runSession_induction (P := fun t => s.clk ≤ t.clk) (fun _ _ hu h => hu.trans (step_clk_le h))
    (fun _ _ _ _ hu h => (hostEnd_clk h).symm ▸ hu) events s le_rfl

/-! ## PC and the instruction's length -/

theorem length_aluImmInstr (y : BitVec 3) (n : Byte) : (aluImmInstr y n).length = 2 := by
  unfold aluImmInstr
  split <;> rfl

theorem length_decodeX0 (op lo hi : Byte) : (decodeX0 op lo hi).length = (decodeX0 op 0#8 0#8).length := by
  dsimp only [decodeX0]
  split
  case h_1 | h_2 | h_7 => split <;> rfl
  all_goals rfl

theorem length_decodeX3 (op lo hi : Byte) : (decodeX3 op lo hi).length = (decodeX3 op 0#8 0#8).length := by
  dsimp only [decodeX3]
  split
  case h_7 => rw [length_aluImmInstr, length_aluImmInstr]
  case h_8 => rfl
  all_goals split <;> rfl

/-- The opcode byte alone determines the length (30_encoding R120). -/
theorem length_decodeOp (op lo hi : Byte) : (decodeOp op lo hi).length = instrLength op := by
  unfold instrLength decodeOp
  split
  · exact length_decodeX0 op lo hi
  · rfl
  · rfl
  · exact length_decodeX3 op lo hi

theorem State.fetchBytes_head (s : State) : s.fetchBytes.getD 0 0#8 = s.busRead s.pc := by
  simp only [State.fetchBytes]
  split <;> rfl

theorem State.length_fetchInstr (s : State) : s.fetchInstr.length = instrLength (s.busRead s.pc) := by
  simp only [State.fetchInstr, length_decodeOp, s.fetchBytes_head]

/-- Settles O10: a completed step advances by the length of the instruction fetched, which its opcode byte gives. -/
theorem pcAdvancesByTheLength : Obligations.PcAdvancesByTheLength := by
  intro s t _ h ht hi
  cases step_next h with
  | unimplemented => cases ht
  | romWrite => cases ht
  | completed _ hc => rw [hc.pc hi, s.length_fetchInstr]

/-! ## The writers of SP and F -/

/-- Settles O21: a fault leaves SP, and a completed instruction outside the list does (`Completed.sp`). -/
theorem spWritersAreTheListed : Obligations.SpWritersAreTheListed := by
  intro s t h hi
  cases step_next h with
  | unimplemented => rfl
  | romWrite => rfl
  | completed _ hc => exact hc.sp hi

/-- Settles O22: a fault leaves F, and a completed instruction outside the list does (`Completed.f`). -/
theorem flagWritersAreTheListed : Obligations.FlagWritersAreTheListed := by
  intro s t h hi
  cases step_next h with
  | unimplemented => rfl
  | romWrite => rfl
  | completed _ hc => exact hc.f hi

/-! ## IME and CLK are read by no instruction -/

/-- `s` with other values of IME and CLK. -/
def State.withImeClk (s : State) (b : Bool) (n : Nat) : State := { s with ime := b, clk := n }

@[simp] theorem State.withImeClk_fault (s : State) (b : Bool) (n : Nat) : (s.withImeClk b n).fault = s.fault := rfl

theorem State.eq_withImeClk_of_forget {t t' : State} (h : t'.withImeClk false 0 = t.withImeClk false 0) :
    t' = t.withImeClk t'.ime t'.clk := by
  have hback : (t'.withImeClk false 0).withImeClk t'.ime t'.clk = (t.withImeClk false 0).withImeClk t'.ime t'.clk := by
    rw [h]
  exact hback

/-- An outcome up to IME and CLK. -/
def forgetImeClk : Host.Outcome State Fault Refusal → Host.Outcome State Fault Refusal
  | .next t => .next (t.withImeClk false 0)
  | .fault r => .fault r
  | .refused r => .refused r

section
variable (s : State) (b : Bool) (n : Nat)

theorem State.busWrite_withImeClk (a : Addr) (v : Byte) :
    (s.withImeClk b n).busWrite a v = (s.busWrite a v).map (·.withImeClk b n) := by
  have hr : (s.withImeClk b n).route a = s.route a := State.route_congr rfl a
  have hp : (s.withImeClk b n).launch.romWritePolicy = s.launch.romWritePolicy := rfl
  unfold State.busWrite
  rw [hr, hp]
  cases s.route a with
  | cart => cases s.launch.romWritePolicy <;> rfl
  | ram i => rfl

theorem State.writeHL_withImeClk (v : Byte) :
    (s.withImeClk b n).writeHL v = (s.writeHL v).map (·.withImeClk b n) :=
  s.busWrite_withImeClk b n s.hl v

theorem State.busWriteWord_withImeClk (a v : Addr) :
    (s.withImeClk b n).busWriteWord a v = (s.busWriteWord a v).map (·.withImeClk b n) := by
  unfold State.busWriteWord
  rw [State.busWrite_withImeClk]
  cases s.busWrite a (loByte v) with
  | error w => rfl
  | ok t => exact t.busWrite_withImeClk b n _ _

theorem State.push16_withImeClk (v : Addr) :
    (s.withImeClk b n).push16 v = (s.push16 v).map (·.withImeClk b n) :=
  (s.setSp (s.sp - 2#16)).busWriteWord_withImeClk b n _ v

theorem State.writeHL_setZNH_withImeClk (v : Byte) (r : StepResult) :
    ((s.withImeClk b n).writeHL v).map (·.setZNH r) =
      ((s.writeHL v).map (·.setZNH r)).map (·.withImeClk b n) := by
  rw [State.writeHL_withImeClk]
  cases s.writeHL v <;> rfl

/-- A write that commutes with IME and CLK ends its step the same. -/
theorem forgetImeClk_completeWrite {written written' : Except Addr State}
    (h : written' = written.map (·.withImeClk b n)) (p : Addr) (k : Nat) :
    forgetImeClk (completeWrite (s.withImeClk b n) written' p k) = forgetImeClk (completeWrite s written p k) := by
  cases h
  cases written <;> rfl

theorem forgetImeClk_push (v p : Addr) (k : Nat) :
    forgetImeClk (completeWrite (s.withImeClk b n) ((s.withImeClk b n).push16 v) p k) =
      forgetImeClk (completeWrite s (s.push16 v) p k) :=
  forgetImeClk_completeWrite s b n (s.push16_withImeClk b n v) p k

theorem forgetImeClk_ite (c : Prop) [Decidable c] {x x' y y' : Host.Outcome State Fault Refusal}
    (hx : forgetImeClk x = forgetImeClk x') (hy : forgetImeClk y = forgetImeClk y') :
    forgetImeClk (if c then x else y) = forgetImeClk (if c then x' else y') := by
  split
  · exact hx
  · exact hy

/-- No instruction reads IME or CLK (10_state R43, R44): from other values of them it ends the same, up to them. -/
theorem exec_withImeClk (i : Instr) : forgetImeClk (exec i (s.withImeClk b n)) = forgetImeClk (exec i s) := by
  cases i with
  | ldHLN v => exact forgetImeClk_completeWrite s b n (s.writeHL_withImeClk b n v) _ _
  | ldHLR src => exact forgetImeClk_completeWrite s b n (s.writeHL_withImeClk b n (s.getReg src)) _ _
  | incHL => exact forgetImeClk_completeWrite s b n (s.writeHL_setZNH_withImeClk b n _ (inc8 s.readHL)) _ _
  | decHL => exact forgetImeClk_completeWrite s b n (s.writeHL_setZNH_withImeClk b n _ (dec8 s.readHL)) _ _
  | push q => cases q <;> exact forgetImeClk_push s b n _ _ _
  | call nn => exact forgetImeClk_push s b n _ _ _
  | rst k => exact forgetImeClk_push s b n _ _ _
  | nop => exact forgetImeClk_ite _ rfl rfl
  | jrE e => exact forgetImeClk_ite _ rfl rfl
  | jrCc cc e => exact forgetImeClk_ite (s.cond cc) rfl rfl
  | retCc cc => exact forgetImeClk_ite (s.cond cc) rfl rfl
  | jpCc cc nn => exact forgetImeClk_ite s.launch.admitJpCc (forgetImeClk_ite (s.cond cc) rfl rfl) rfl
  | callCc cc nn =>
    exact forgetImeClk_ite s.launch.admitCallCc (forgetImeClk_ite (s.cond cc) (forgetImeClk_push s b n _ _ _) rfl) rfl
  | ldRN r | ldRR r | ldRHL r | incR r | decR r => cases r <;> rfl
  | ldRpNN p | incRp p | decRp p => cases p <;> rfl
  | pop q => cases q <;> rfl
  | _ => rfl

theorem State.fetchInstr_withImeClk : (s.withImeClk b n).fetchInstr = s.fetchInstr := rfl

/-- A step from other values of IME and CLK is the same step, up to them. -/
theorem forgetImeClk_step_withImeClk : forgetImeClk (step (s.withImeClk b n)) = forgetImeClk (step s) := by
  unfold step
  rw [State.withImeClk_fault, State.fetchInstr_withImeClk]
  cases s.fault with
  | some r => rfl
  | none => exact exec_withImeClk s b n _

end

/-- What a completed instruction leaves in IME (44_system R500, R501). -/
def imeAfter (i : Instr) (ime : Bool) : Bool := if i = .ei then true else if i = .di then false else ime

theorem imeAfter_of_ne {i : Instr} (hei : i ≠ .ei) (hdi : i ≠ .di) (ime : Bool) : imeAfter i ime = ime := by
  rw [imeAfter, if_neg hei, if_neg hdi]

/-- What a step leaves in IME: a failing one leaves it alone. -/
theorem step_ime {s t : State} (h : step s = .next t) :
    t.ime = if t.fault = none then imeAfter s.fetchInstr s.ime else s.ime := by
  have hs := enabled_of_step h
  have hexec : exec s.fetchInstr s = .next t := by rw [← h, step, hs]
  cases step_next h with
  | unimplemented => rfl
  | romWrite => rfl
  | completed _ hc =>
    rw [hc.fault, if_pos hs]
    by_cases hei : s.fetchInstr = .ei
    · rw [hei] at hexec ⊢
      cases hexec
      rfl
    by_cases hdi : s.fetchInstr = .di
    · rw [hdi] at hexec ⊢
      cases hexec
      rfl
    rw [hc.ime hei hdi, imeAfter_of_ne hei hdi]

/-- From other values of IME and CLK the same step is taken: the same cycles added, and IME kept or set as before. -/
theorem step_withImeClk {s t : State} (b : Bool) (n : Nat) (h : step s = .next t) :
    step (s.withImeClk b n) = .next (t.withImeClk (if t.fault = none then imeAfter s.fetchInstr b else b)
      (n + (t.clk - s.clk))) := by
  have henabled : Enabled (s.withImeClk b n) := (s.withImeClk_fault b n).trans (enabled_of_step h)
  obtain ⟨t', h', -⟩ := step_end (s.withImeClk b n) henabled
  have hforget := forgetImeClk_step_withImeClk s b n
  rw [h, h'] at hforget
  have ht' : t' = t.withImeClk t'.ime t'.clk := State.eq_withImeClk_of_forget (Host.Outcome.next.inj hforget)
  have hfault : t'.fault = t.fault := (congrArg State.fault ht').trans (t.withImeClk_fault _ _)
  have hime := step_ime h'
  have hclk := step_clk h'
  rw [State.fetchInstr_withImeClk, hfault] at hime hclk
  have hclk' : t'.clk = n + (t.clk - s.clk) := by
    rw [step_clk h, Nat.add_sub_cancel_left]
    exact hclk
  rw [h', ht', hime, hclk']
  rfl

/-- Settles O19: `step_ime`, and `step_withImeClk` at the same CLK. -/
theorem imeHasNoEffect : Obligations.ImeHasNoEffect := by
  refine ⟨fun s t h hei hdi => ?_, fun s t b h => ?_⟩
  · rw [step_ime h, imeAfter_of_ne hei hdi, ite_self]
  · have hb := step_withImeClk b s.clk h
    rw [Nat.add_sub_cancel' (step_clk_le h)] at hb
    exact ⟨_, hb⟩

/-- Settles O20: `step_withImeClk` at the same IME. -/
theorem clockIsNotRead : Obligations.ClockIsNotRead := by
  intro s t n h
  have hn := step_withImeClk s.ime n h
  rw [← step_ime h] at hn
  exact ⟨step_clk_le h, hn⟩

end Sys2Proof.Machine
end

/-! The rules of memory (20_memory): routing and the echo range, cartridge and RAM reads, what a byte write and a word
write leave in memory, the host's writes, and a store that the next fetch reads. -/

section

namespace Sys2Proof.Machine

/-! ## Routing -/

theorem State.route_cart_iff {s : State} {a : Addr} :
    s.route a = .cart ↔ a < 0x8000#16 ∧ s.launch.cartPresent = true :=
  Machine.route_cart_iff _ a

theorem State.exists_route_ram {s : State} {a : Addr} (h : s.route a ≠ .cart) : ∃ i, s.route a = .ram i :=
  ⟨_, route_ram_of_not_cart _ a fun hc => h (State.route_cart_iff.2 hc)⟩

/-- An echo address and its mirror, 0x2000 below, are routed to one RAM byte (20_memory R81). -/
theorem State.route_echo (s : State) {a : Addr} (hlo : 0xE000#16 ≤ a) (hhi : a ≤ 0xFDFF#16) :
    s.route a = .ram (a - 0x2000#16) ∧ s.route (a - 0x2000#16) = .ram (a - 0x2000#16) := by
  constructor
  · have hcart : ¬(a < 0x8000#16 ∧ s.launch.cartPresent = true) := by bv_omega
    exact (route_ram_of_not_cart _ a hcart).trans (by rw [if_pos ⟨hlo, hhi⟩])
  · have hcart : ¬(a - 0x2000#16 < 0x8000#16 ∧ s.launch.cartPresent = true) := by bv_omega
    have hecho : ¬(0xE000#16 ≤ a - 0x2000#16 ∧ a - 0x2000#16 ≤ 0xFDFF#16) := by bv_omega
    exact (route_ram_of_not_cart _ _ hcart).trans (by rw [if_neg hecho])

/-- Only an echo address and its mirror share a RAM byte (R83). -/
theorem eq_or_mirror_of_route_eq {p : Bool} {x a i : Addr} (hx : route p x = .ram i) (ha : route p a = .ram i) :
    x = a ∨ (0xE000#16 ≤ a ∧ a ≤ 0xFDFF#16 ∧ x = a - 0x2000#16) ∨
      (0xC000#16 ≤ a ∧ a ≤ 0xDDFF#16 ∧ x = a + 0x2000#16) := by
  rcases route_ram_index p x i hx with ⟨hx1, hx2, rfl⟩ | ⟨-, rfl⟩ <;>
    rcases route_ram_index p a _ ha with ⟨ha1, ha2, e⟩ | ⟨-, e⟩
  · left; bv_omega
  · right; right; bv_omega
  · exact .inr (.inl ⟨ha1, ha2, e⟩)
  · exact .inl e

/-- Neighbouring addresses never share a RAM byte. -/
theorem State.route_succ_ne {s : State} {a : Addr} (h : s.route a ≠ .cart) : s.route a ≠ s.route (a + 1#16) := by
  intro e
  obtain ⟨i, hi⟩ := State.exists_route_ram h
  rcases eq_or_mirror_of_route_eq hi (e ▸ hi) with e | ⟨-, -, e⟩ | ⟨-, -, e⟩ <;> bv_omega

/-! ## Reads -/

theorem State.busRead_of_cart {s : State} {a : Addr} (h : s.route a = .cart) : s.busRead a = s.cartRead a := by
  simp only [State.busRead, h]

theorem State.busRead_of_ram {s : State} {a i : Addr} (h : s.route a = .ram i) :
    s.busRead a = ramRead s.ram i.toNat := by
  simp only [State.busRead, h]

theorem romByte_natCast (rom : List Byte) (off : Nat) : romByte rom off = (rom[off]?).getD 0xFF#8 := by
  rw [romByte, if_pos (Int.natCast_nonneg off), Int.toNat_natCast, List.getD_eq_getElem?_getD]

theorem romByte_of_neg (rom : List Byte) {off : Int} (h : off < 0) : romByte rom off = 0xFF#8 :=
  if_neg (not_le.2 h)

theorem cartOffset_low (adjust : BankBaseAdjust) (bank : Nat) {a : Addr} (h : a.toNat < 0x4000) :
    cartOffset adjust bank a = a.toNat :=
  if_pos h

theorem cartOffset_high (adjust : BankBaseAdjust) (bank : Nat) {a : Addr} (h : 0x4000 ≤ a.toNat) :
    cartOffset adjust bank a =
      ((bank : Int) - (if adjust = .one then 1 else 0)) * 0x4000 + ((a.toNat : Int) - 0x4000) := by
  have hwindow : ¬a < 0x4000#16 := not_lt.2 h
  rw [cartOffset, if_neg hwindow]
  cases adjust <;> rfl

/-- Settles O26: the offset of each window, and the image read at it or before its start. -/
theorem cartridgeReadIsTheBankedByte : Obligations.CartridgeReadIsTheBankedByte := by
  intro s a hcart
  have hread (h : a.toNat < 0x8000) : s.busRead a = s.cartRead a :=
    State.busRead_of_cart (State.route_cart_iff.2 ⟨h, hcart⟩)
  refine ⟨fun hlow => ?_, fun hhigh hwindow => ⟨fun off hoff => ?_, fun hneg => ?_⟩⟩
  · rw [hread (by omega), State.cartRead, cartOffset_low _ _ hlow, romByte_natCast]
  · rw [hread hwindow, State.cartRead, cartOffset_high _ _ hhigh, ← hoff, romByte_natCast]
  · rw [hread hwindow, State.cartRead, cartOffset_high _ _ hhigh, romByte_of_neg _ hneg]

/-- Settles O27: the route outside the cartridge window, in the echo range and outside it. -/
theorem ramReadFoldsTheEcho : Obligations.RamReadFoldsTheEcho := by
  intro s a hcart
  rw [State.busRead_of_ram (route_ram_of_not_cart _ a hcart)]
  congr 1
  have hiff : (0xE000#16 ≤ a ∧ a ≤ 0xFDFF#16) ↔ (0xE000 ≤ a.toNat ∧ a.toNat ≤ 0xFDFF) := Iff.rfl
  rw [apply_ite BitVec.toNat]
  simp only [hiff]
  split
  · bv_omega
  · rfl

/-! ## Byte writes -/

theorem storesOnly_refl (s : State) (stored : List Addr) : StoresOnly s s stored :=
  ⟨fun _ _ => rfl, fun _ _ => rfl⟩

/-- A RAM write at the index of `a` changes no byte but the one `a` is routed to. -/
theorem State.setRam_storesOnly {s : State} {a i : Addr} (v : Byte) (hr : s.route a = .ram i) :
    StoresOnly s (s.setRam i v) [a] := by
  refine ⟨fun x hx => ?_, fun j hj => ?_⟩
  · rw [s.busRead_setRam, if_neg]
    intro hi
    rcases hx with hx | hx
    · cases hi.symm.trans hx
    · exact hx a List.mem_cons_self (hi.trans hr.symm)
  · refine ramRead_ramWrite_ne _ _ _ _ fun e => hj a List.mem_cons_self ?_
    rw [hr, BitVec.eq_of_toNat_eq e]

theorem State.busWrite_storesOnly {s t : State} {a : Addr} {v : Byte} (h : s.busWrite a v = .ok t) :
    StoresOnly s t [a] := by
  rcases s.busWrite_cases a v with ⟨-, -, h'⟩ | ⟨-, -, h'⟩ | ⟨i, hr, h'⟩ <;> cases h.symm.trans h'
  · exact storesOnly_refl s [a]
  · exact State.setRam_storesOnly _ hr

/-- A byte stored in RAM is read at every address routed with it, 0 where it was stored at 0xFF44 (R73). -/
theorem State.busRead_of_busWrite {s t : State} {a x : Addr} {v : Byte} (h : s.busWrite a v = .ok t)
    (hx : s.route x = s.route a) (ha : s.route a ≠ .cart) :
    t.busRead x = if a = 0xFF44#16 then 0x00#8 else v := by
  rcases s.busWrite_cases a v with ⟨hc, -, -⟩ | ⟨hc, -, -⟩ | ⟨i, hr, h'⟩
  · exact absurd hc ha
  · exact absurd hc ha
  · cases h.symm.trans h'
    rw [s.busRead_setRam, if_pos (hx.trans hr)]

theorem State.busWrite_ok_of_not_romFaults {s : State} {a : Addr} (v : Byte) (h : ¬RomFaults s a) :
    ∃ t, s.busWrite a v = .ok t := by
  rcases s.busWrite_cases a v with ⟨hc, hp, -⟩ | ⟨-, -, h'⟩ | ⟨i, -, h'⟩
  · obtain ⟨hlt, hcart⟩ := State.route_cart_iff.1 hc
    exact absurd ⟨hlt, hcart, hp⟩ h
  · exact ⟨_, h'⟩
  · exact ⟨_, h'⟩

theorem State.busRead_busWrite_same {s t : State} {a : Addr} {v : Byte} (h : s.busWrite a v = .ok t) :
    t.busRead a = storedByte s a v := by
  rcases s.busWrite_cases a v with ⟨-, -, h'⟩ | ⟨hc, hp, h'⟩ | ⟨i, hr, -⟩
  · cases h.symm.trans h'
  · cases h.symm.trans h'
    obtain ⟨hlt, hcart⟩ := State.route_cart_iff.1 hc
    rw [storedByte, if_pos ⟨hlt, hcart, hp⟩]
  · have hne : s.route a ≠ .cart := by rw [hr]; exact nofun
    have hignored : ¬RomIgnores s a := fun hi => hne (State.route_cart_iff.2 ⟨hi.1, hi.2.1⟩)
    rw [State.busRead_of_busWrite h rfl hne, storedByte, if_neg hignored]

/-- Settles O28: when a byte write raises, what it stores, and its frame. -/
theorem byteWriteStoresAsTheBusSays : Obligations.ByteWriteStoresAsTheBusSays := by
  intro s a v
  constructor
  · rintro ⟨hlt, hcart, hpolicy⟩
    exact (State.busWrite_error_iff s a a v).2 ⟨rfl, State.route_cart_iff.2 ⟨hlt, hcart⟩, hpolicy⟩
  · intro hfault
    obtain ⟨t, ht⟩ := State.busWrite_ok_of_not_romFaults v hfault
    exact ⟨t, ht, State.busRead_busWrite_same ht, State.busWrite_storesOnly ht, (State.busWrite_ok ht).1⟩

/-- A byte write is seen at no address that is neither its own nor its mirror (R83). -/
theorem State.busRead_busWrite_of_not_mirror {s t : State} {a x : Addr} {v : Byte} (h : s.busWrite a v = .ok t)
    (hx : x ≠ a) (hecho : 0xE000#16 ≤ a → a ≤ 0xFDFF#16 → x ≠ a - 0x2000#16)
    (hwork : 0xC000#16 ≤ a → a ≤ 0xDDFF#16 → x ≠ a + 0x2000#16) : t.busRead x = s.busRead x := by
  refine (State.busWrite_storesOnly h).1 x ?_
  by_cases hc : s.route x = .cart
  · exact .inl hc
  · right
    obtain ⟨i, hi⟩ := State.exists_route_ram hc
    simp only [List.mem_singleton, forall_eq]
    intro e
    rcases eq_or_mirror_of_route_eq hi (e ▸ hi) with e | ⟨hlo, hhi, e⟩ | ⟨hlo, hhi, e⟩
    · exact hx e
    · exact hecho hlo hhi e
    · exact hwork hlo hhi e

/-- A byte written in either of the two ranges is read at its mirror, which is routed to the same RAM byte. -/
theorem State.busRead_busWrite_mirror {s t : State} {a x i : Addr} {v : Byte} (h : s.busWrite a v = .ok t)
    (hx : s.route x = .ram i) (ha : s.route a = .ram i) (hne : a ≠ 0xFF44#16) : t.busRead x = v := by
  rw [State.busRead_of_busWrite h (hx.trans ha.symm) (by rw [ha]; exact nofun), if_neg hne]

/-- Settles O29: an echo address and its mirror share one RAM byte, and no other two addresses do. -/
theorem echoRangeAliases : Obligations.EchoRangeAliases := by
  intro s t a v h
  refine ⟨fun hlo hhi => ⟨?_, fun x hx hmirror => ?_⟩, fun hlo hhi => ⟨?_, fun x hx hmirror => ?_⟩,
    fun hecho hwork x hx => ?_⟩
  · obtain ⟨ha, hx⟩ := s.route_echo hlo hhi
    exact State.busRead_busWrite_mirror h hx ha (by bv_omega)
  · exact State.busRead_busWrite_of_not_mirror h hx (fun _ _ => hmirror) (by bv_omega)
  · obtain ⟨hx, ha⟩ := s.route_echo (a := a + 0x2000#16) (by bv_omega) (by bv_omega)
    rw [BitVec.add_sub_cancel] at hx ha
    exact State.busRead_busWrite_mirror h hx ha (by bv_omega)
  · exact State.busRead_busWrite_of_not_mirror h hx (by bv_omega) (fun _ _ => hmirror)
  · exact State.busRead_busWrite_of_not_mirror h hx (fun hlo hhi => absurd ⟨hlo, hhi⟩ hecho)
      (fun hlo hhi => absurd ⟨hlo, hhi⟩ hwork)

/-! ## Word writes -/

/-- A word written where both bytes are plain RAM stands there, low byte first (R76): the second write leaves the
first byte alone. -/
theorem State.busRead_of_busWriteWord {s u : State} {a v : Addr} (h : s.busWriteWord a v = .ok u)
    (h0 : s.route a ≠ .cart) (h1 : s.route (a + 1#16) ≠ .cart) (hs0 : a ≠ 0xFF44#16) (hs1 : a + 1#16 ≠ 0xFF44#16) :
    u.busRead a = loByte v ∧ u.busRead (a + 1#16) = hiByte v := by
  rcases s.busWriteWord_cases a v with ⟨w, hw, -⟩ | ⟨t, u', ht, hu, hw⟩ <;> cases h.symm.trans hw
  have hlaunch : t.launch = s.launch := by rw [(State.busWrite_ok ht).1]
  have hroute := State.route_congr hlaunch
  have hkept : u.busRead a = t.busRead a := by
    refine (State.busWrite_storesOnly hu).1 a (.inr ?_)
    simpa only [List.mem_singleton, forall_eq, hroute] using State.route_succ_ne h0
  constructor
  · rw [hkept, State.busRead_of_busWrite ht rfl h0, if_neg hs0]
  · rw [State.busRead_of_busWrite hu rfl (by rwa [hroute]), if_neg hs1]

/-- Settles O30: the byte order of a word, and the two bytes a word write leaves. -/
theorem wordsAreLittleEndian : Obligations.WordsAreLittleEndian := by
  refine ⟨fun s a => ?_, fun s t a v h h0 h1 hs0 hs1 => ?_⟩
  · rw [State.busReadWord, word_toNat, Nat.add_comm]
  · obtain ⟨hlo, hhi⟩ := State.busRead_of_busWriteWord h h0 h1 hs0 hs1
    refine ⟨?_, ?_, ?_⟩
    · rw [hlo, loByte_toNat]
    · rw [hhi, hiByte_toNat]
    · rw [State.busReadWord, hlo, hhi, word_hi_lo]

/-! ## The scanline byte -/

theorem State.busRead_scanline (s : State) : s.busRead 0xFF44#16 = ramRead s.ram 0xFF44 :=
  State.busRead_of_ram ((route_scanline _ _).2 rfl)

/-- Settles O24: a fault leaves RAM, and a completed instruction keeps or clears the byte (`Completed.scanline`). -/
theorem scanlineByteIsKeptOrCleared : Obligations.ScanlineByteIsKeptOrCleared := by
  intro s t h
  rw [t.busRead_scanline, s.busRead_scanline]
  cases step_next h with
  | unimplemented => exact .inl rfl
  | romWrite => exact .inl rfl
  | completed _ hc => exact hc.scanline

/-! ## The host's writes -/

theorem State.setFirstBankIndex_of_neg (s : State) {k : Int} (h : k < 0) : s.setFirstBankIndex k = .refused :=
  if_pos h

theorem State.setFirstBankIndex_of_nonneg (s : State) {k : Int} (h : 0 ≤ k) :
    s.setFirstBankIndex k = .done { s with bank := k.toNat } :=
  if_neg (not_lt.2 h)

theorem State.writeDirect_of_cart {s : State} {a : Addr} (v : Byte) (h : s.route a = .cart) :
    s.writeDirect a v = .refused := by
  simp only [State.writeDirect, h]

theorem State.writeDirect_of_ram {s : State} {a i : Addr} (v : Byte) (h : s.route a = .ram i) :
    s.writeDirect a v = .done (s.setRam i v) := by
  simp only [State.writeDirect, h]

/-- Settles O57: the two branches of `State.setFirstBankIndex` and of `State.writeDirect`. -/
theorem hostWritesBankAndMemory : Obligations.HostWritesBankAndMemory := by
  refine fun s => ⟨fun k => ⟨s.setFirstBankIndex_of_neg, fun hk => ?_⟩, fun a v => ⟨fun hc => ?_, fun hc => ?_⟩⟩
  · exact ⟨_, s.setFirstBankIndex_of_nonneg hk, Int.toNat_of_nonneg hk, rfl⟩
  · exact State.writeDirect_of_cart v (State.route_cart_iff.2 hc)
  · obtain ⟨i, hi⟩ := State.exists_route_ram (mt State.route_cart_iff.1 hc)
    refine ⟨_, State.writeDirect_of_ram v hi, ?_, State.setRam_storesOnly v hi, rfl⟩
    rw [s.busRead_setRam, if_pos hi]

/-! ## A store and the next fetch -/

/-- An operand byte past the instruction's length is not read (30_encoding R120, R122): x = 00. -/
theorem decodeX0_congr {op lo lo' hi hi' : Byte} (hlo : 2 ≤ (decodeX0 op lo hi).length → lo = lo')
    (hhi : 3 ≤ (decodeX0 op lo hi).length → hi = hi') : decodeX0 op lo hi = decodeX0 op lo' hi' := by
  revert hlo hhi
  dsimp only [decodeX0]
  split
  case h_1 =>
    split
    case h_4 | h_5 => exact fun hlo _ => congrArg _ (hlo (Nat.le_refl 2))
    all_goals exact fun _ _ => rfl
  case h_2 =>
    split
    case h_1 => exact fun hlo hhi => by rw [hlo (Nat.le_succ 2), hhi (Nat.le_refl 3)]
    all_goals exact fun _ _ => rfl
  case h_7 => split <;> exact fun hlo _ => congrArg _ (hlo (Nat.le_refl 2))
  all_goals exact fun _ _ => rfl

/-- The same for x = 11. -/
theorem decodeX3_congr {op lo lo' hi hi' : Byte} (hlo : 2 ≤ (decodeX3 op lo hi).length → lo = lo')
    (hhi : 3 ≤ (decodeX3 op lo hi).length → hi = hi') : decodeX3 op lo hi = decodeX3 op lo' hi' := by
  revert hlo hhi
  dsimp only [decodeX3]
  split
  case h_1 =>
    split
    case h_4 => exact fun hlo _ => congrArg _ (hlo (Nat.le_refl 2))
    all_goals exact fun _ _ => rfl
  case h_3 | h_5 =>
    split
    case h_5 => exact fun hlo hhi => by rw [hlo (Nat.le_succ 2), hhi (Nat.le_refl 3)]
    all_goals exact fun _ _ => rfl
  case h_4 | h_6 =>
    split
    case h_1 => exact fun hlo hhi => by rw [hlo (Nat.le_succ 2), hhi (Nat.le_refl 3)]
    all_goals exact fun _ _ => rfl
  case h_7 => exact fun hlo _ => congrArg _ (hlo (length_aluImmInstr _ _).ge)
  all_goals exact fun _ _ => rfl

/-- The decoder reads no operand byte past the length that the opcode byte determines. -/
theorem decodeOp_congr {op lo lo' hi hi' : Byte} (hlo : 2 ≤ instrLength op → lo = lo')
    (hhi : 3 ≤ instrLength op → hi = hi') : decodeOp op lo hi = decodeOp op lo' hi' := by
  rw [← length_decodeOp op lo hi] at hlo hhi
  revert hlo hhi
  unfold decodeOp
  split
  · exact decodeX0_congr
  · exact fun _ _ => rfl
  · exact fun _ _ => rfl
  · exact decodeX3_congr

theorem Instr.length_range (i : Instr) : 1 ≤ i.length ∧ i.length ≤ 3 := by
  unfold Instr.length
  split <;> omega

/-- At an admitted opcode the instruction run is the decoding of the three bytes at PC. -/
theorem State.fetchInstr_of_admitted {s : State} (h : Admitted s.launch (s.busRead s.pc)) :
    s.fetchInstr = decodeOp (s.busRead s.pc) (s.busRead (s.pc + 1#16)) (s.busRead (s.pc + 2#16)) := by
  obtain ⟨hmin, hmax⟩ : 1 ≤ instrLength (s.busRead s.pc) ∧ instrLength (s.busRead s.pc) ≤ 3 :=
    Instr.length_range _
  obtain hlen | hlen | hlen : instrLength (s.busRead s.pc) = 1 ∨ instrLength (s.busRead s.pc) = 2 ∨
      instrLength (s.busRead s.pc) = 3 := by omega
  all_goals simp only [State.fetchInstr, State.fetchBytes_of_admitted h, hlen, List.getD_cons_zero,
    List.getD_cons_succ, List.getD_nil]
  · exact decodeOp_congr (by omega) (by omega)
  · exact decodeOp_congr (fun _ => rfl) (by omega)

theorem State.head?_fetchBytes (s : State) : s.fetchBytes.head? = some (s.busRead s.pc) := by
  simp only [State.fetchBytes]
  split <;> rfl

theorem step_of_enabled {s : State} (h : Enabled s) : step s = exec s.fetchInstr s := by
  rw [step, h]

theorem exec_ldHLR_of_busWrite {s u : State} {src : Reg8} (h : s.busWrite s.hl (s.getReg src) = .ok u) :
    exec (.ldHLR src) s = .next (u.retire (s.pc + 1#16) s.launch.cycleTable.ldHLR) :=
  congrArg (completeWrite s · (s.pc + 1#16) s.launch.cycleTable.ldHLR) h

@[simp] theorem State.retire_busRead (s : State) (p : Addr) (n : Nat) (a : Addr) :
    (s.retire p n).busRead a = s.busRead a :=
  State.busRead_congr rfl rfl rfl a

/-- Settles O31: the store completes, PC stands on the byte stored, and the fetch there reads it by the bus. -/
theorem storeIsSeenByTheNextFetch : Obligations.StoreIsSeenByTheNextFetch := by
  intro s src hen hinstr hhl hram hne
  obtain ⟨u, hu⟩ := State.busWrite_ok_of_not_romFaults (s := s) (a := s.hl) (s.getReg src)
    fun hf => hram (State.route_cart_iff.2 ⟨hf.1, hf.2.1⟩)
  obtain ⟨t, ht⟩ : ∃ t, t = u.retire (s.pc + 1#16) s.launch.cycleTable.ldHLR := ⟨_, rfl⟩
  have hstep : step s = .next t := by rw [step_of_enabled hen, hinstr, exec_ldHLR_of_busWrite hu, ht]
  have hpc : t.pc = s.hl := by rw [ht, hhl, State.retire_pc]
  have hread : t.busRead t.pc = s.getReg src := by
    rw [hpc, ht, State.retire_busRead, State.busRead_of_busWrite hu rfl hram, if_neg hne]
  refine ⟨t, hstep, hpc, by rw [t.head?_fetchBytes, hread], fun hadm => ?_⟩
  rw [State.fetchInstr_of_admitted (by rwa [hread, (step_bank_launch hstep).2]), hread]

end Sys2Proof.Machine
end

/-! The encoding (30_encoding): what an operand byte can change in a decoded instruction, decoding and encoding as
inverses of each other, the bytes a fetch reads, and the step as `exec` of the instruction decoded at PC. -/

section

namespace Sys2Proof.Machine

/-! ## The bytes of an instruction -/

theorem length_encode (i : Instr) : (encode i).length = i.length := by
  cases i <;> rfl

/-- The decoder reads a well-formed instruction back from its opcode byte and operand bytes, with 0 where it has no
operand. -/
theorem decodeOp_of_encode {i : Instr} {op : Byte} {operands : List Byte} (hw : i.wellFormed = true)
    (he : encode i = op :: operands) : decodeOp op (operands.getD 0 0#8) (operands.getD 1 0#8) = i := by
  cases i with
  | ldRR dst src => cases he; cases dst <;> cases src <;> rfl
  | ldRN r | ldRHL r | ldHLR r | addR r | adcR r | subR r | sbcR r | andR r | xorR r | orR r | cpR r | incR r
  | decR r => cases he; cases r <;> rfl
  | incRp p | decRp p => cases he; cases p <;> rfl
  | push q | pop q => cases he; cases q <;> rfl
  | jrCc cc | retCc cc => cases he; cases cc <;> rfl
  | ldRpNN p nn => cases he; cases p <;> exact congrArg _ (word_hi_lo nn)
  | call nn | jp nn => cases he; exact congrArg _ (word_hi_lo nn)
  | jpCc cc nn | callCc cc nn => cases he; cases cc <;> exact congrArg _ (word_hi_lo nn)
  | rst t =>
    cases he
    obtain ⟨y, rfl⟩ := rstTarget_field t hw
    revert y
    decide
  | _ => cases he; rfl

/-- A sequence that holds the operand bytes of its opcode decodes, and what follows them is left over. -/
theorem decode_cons_append {op : Byte} {operands : List Byte} (h : operands.length + 1 = instrLength op)
    (rest : List Byte) :
    decode (op :: operands ++ rest) = .ok (decodeOp op (operands.getD 0 0#8) (operands.getD 1 0#8), rest) := by
  have hlen : instrLength op - 1 = operands.length := by omega
  have hgetD (k : Nat) (hk : k + 2 ≤ instrLength op) : (operands ++ rest).getD k 0#8 = operands.getD k 0#8 :=
    List.getD_append _ _ _ _ (by omega)
  have henough : ¬(operands ++ rest).length < operands.length := by simp
  rw [List.cons_append, decode, hlen, if_neg henough, List.drop_left, decodeOp_congr (hgetD 0) (hgetD 1)]

/-- Settles O1: an instruction's bytes are an opcode and as many operand bytes as it determines
(`decode_cons_append`), and they are read back (`decodeOp_encode`). -/
theorem decodeOfEncodeIsTheInstruction : Obligations.DecodeOfEncodeIsTheInstruction := by
  intro i rest hw
  obtain ⟨op, operands, he⟩ : ∃ op operands, encode i = op :: operands :=
    List.exists_cons_of_length_pos (length_encode i ▸ (Instr.length_range i).1)
  have hback := decodeOp_of_encode hw he
  have hlen : operands.length + 1 = instrLength op := by
    rw [← length_decodeOp op (operands.getD 0 0#8) (operands.getD 1 0#8), hback, ← length_encode, he,
      List.length_cons]
  rw [he, decode_cons_append hlen, hback]

/-! ## The operand bytes of a decoded instruction -/

/-- `i` is `j` but for the operand bytes, which in `i` are as many of `lo` and `hi` as the format of `j` names. -/
structure HasOperands (i j : Instr) (lo hi : Byte) : Prop where
  wellFormed : i.wellFormed = j.wellFormed
  admitted (launch : Launch) : i.admitted launch = j.admitted launch
  encode : encode i = (encode j).take 1 ++ [lo, hi].take (j.length - 1)

theorem HasOperands.of_length_eq_one {i : Instr} (h : i.length = 1) (lo hi : Byte) : HasOperands i i lo hi := by
  refine ⟨rfl, fun _ => rfl, ?_⟩
  rw [h, List.take_of_length_le (by rw [length_encode, h]), Nat.sub_self, List.take_zero, List.append_nil]

theorem length_aluRegInstr (y : BitVec 3) (r : Reg8) : (aluRegInstr y r).length = 1 := by
  unfold aluRegInstr
  split <;> rfl

theorem length_aluHLInstr (y : BitVec 3) : (aluHLInstr y).length = 1 := by
  unfold aluHLInstr
  split <;> rfl

theorem length_decodeX1 (op : Byte) : (decodeX1 op).length = 1 := by
  unfold decodeX1
  split <;> rfl

theorem length_decodeX2 (op : Byte) : (decodeX2 op).length = 1 := by
  unfold decodeX2
  split
  · exact length_aluRegInstr _ _
  · exact length_aluHLInstr _

theorem hasOperands_aluImmInstr (y : BitVec 3) (lo hi : Byte) :
    HasOperands (aluImmInstr y lo) (aluImmInstr y 0#8) lo hi := by
  unfold aluImmInstr
  split <;> exact ⟨rfl, fun _ => rfl, rfl⟩

/-- A 16-bit immediate is encoded low byte first (R125). -/
theorem cons_loByte_hiByte_word (op lo hi : Byte) :
    [op, loByte (word hi lo), hiByte (word hi lo)] = [op, lo, hi] := by
  rw [loByte_word, hiByte_word]

theorem hasOperands_decodeX0 (op lo hi : Byte) : HasOperands (decodeX0 op lo hi) (decodeX0 op 0#8 0#8) lo hi := by
  dsimp only [decodeX0]
  split
  case h_2 =>
    split
    case h_1 => exact ⟨rfl, fun _ => rfl, cons_loByte_hiByte_word _ lo hi⟩
    all_goals exact ⟨rfl, fun _ => rfl, rfl⟩
  all_goals split <;> exact ⟨rfl, fun _ => rfl, rfl⟩

theorem hasOperands_decodeX3 (op lo hi : Byte) : HasOperands (decodeX3 op lo hi) (decodeX3 op 0#8 0#8) lo hi := by
  dsimp only [decodeX3]
  split
  case h_3 | h_5 =>
    split
    case h_5 => exact ⟨rfl, fun _ => rfl, cons_loByte_hiByte_word _ lo hi⟩
    all_goals exact ⟨rfl, fun _ => rfl, rfl⟩
  case h_4 | h_6 =>
    split
    case h_1 => exact ⟨rfl, fun _ => rfl, cons_loByte_hiByte_word _ lo hi⟩
    all_goals exact ⟨rfl, fun _ => rfl, rfl⟩
  case h_7 => exact hasOperands_aluImmInstr _ lo hi
  case h_8 => exact ⟨rfl, fun _ => rfl, rfl⟩
  all_goals split <;> exact ⟨rfl, fun _ => rfl, rfl⟩

/-- The opcode byte determines the instruction but for its operand bytes, which are the bytes after it. -/
theorem hasOperands_decodeOp (op lo hi : Byte) : HasOperands (decodeOp op lo hi) (decodeOp op 0#8 0#8) lo hi := by
  unfold decodeOp
  split
  · exact hasOperands_decodeX0 op lo hi
  · exact .of_length_eq_one (length_decodeX1 op) lo hi
  · exact .of_length_eq_one (length_decodeX2 op) lo hi
  · exact hasOperands_decodeX3 op lo hi

/-- Each of the 256 opcode bytes begins the encoding of its own, well-formed instruction (R138). -/
theorem opcode_encodes_back : ∀ op : Byte,
    (decodeOp op 0#8 0#8).wellFormed = true ∧ (encode (decodeOp op 0#8 0#8)).take 1 = [op] := by
  decide

theorem wellFormed_decodeOp (op lo hi : Byte) : (decodeOp op lo hi).wellFormed = true :=
  (hasOperands_decodeOp op lo hi).wellFormed.trans (opcode_encodes_back op).1

theorem encode_decodeOp (op lo hi : Byte) :
    encode (decodeOp op lo hi) = op :: [lo, hi].take (instrLength op - 1) := by
  rw [(hasOperands_decodeOp op lo hi).encode, (opcode_encodes_back op).2]
  rfl

theorem admitted_decodeOp (launch : Launch) (op lo hi : Byte) :
    (decodeOp op lo hi).admitted launch = opcodeAdmitted launch op :=
  (hasOperands_decodeOp op lo hi).admitted launch

theorem instrLength_range (op : Byte) : 1 ≤ instrLength op ∧ instrLength op ≤ 3 :=
  Instr.length_range _

theorem cons_take_instrLength (op lo hi : Byte) :
    op :: [lo, hi].take (instrLength op - 1) = [op, lo, hi].take (instrLength op) := by
  obtain ⟨n, hn⟩ := Nat.exists_eq_add_of_le' (instrLength_range op).1
  rw [hn, Nat.add_sub_cancel, List.take_succ_cons]

/-- Settles O2: the opcode byte is encoded back (`opcode_encodes_back`), with the operand bytes its format names. -/
theorem encodeOfDecodeIsTheBytesRead : Obligations.EncodeOfDecodeIsTheBytesRead := fun op lo hi =>
  ⟨wellFormed_decodeOp op lo hi, (encode_decodeOp op lo hi).trans (cons_take_instrLength op lo hi)⟩

/-! ## The bytes a step fetches -/

theorem State.fetchBytes_eq_take_of_admitted {s : State} (h : Admitted s.launch (s.busRead s.pc)) :
    s.fetchBytes = [s.busRead s.pc, s.busRead (s.pc + 1#16), s.busRead (s.pc + 2#16)].take
      (instrLength (s.busRead s.pc)) := by
  obtain ⟨hmin, hmax⟩ := instrLength_range (s.busRead s.pc)
  rw [State.fetchBytes_of_admitted h]
  obtain hlen | hlen | hlen : instrLength (s.busRead s.pc) = 1 ∨ instrLength (s.busRead s.pc) = 2 ∨
      instrLength (s.busRead s.pc) = 3 := by omega
  all_goals rw [hlen]; rfl

/-- Settles O3: a decoded instruction's length is in range and its opcode byte's, and an admitted fetch is by it. -/
theorem opcodeByteAloneDeterminesLength : Obligations.OpcodeByteAloneDeterminesLength := by
  intro s lo hi
  obtain ⟨hmin, hmax⟩ := instrLength_range (s.busRead s.pc)
  exact ⟨hmin, hmax, length_decodeOp _ lo hi, State.fetchBytes_eq_take_of_admitted⟩

/-! ## The instructions a launch does not admit -/

/-- An instruction the launch does not admit raises UnimplementedOpcode with the opcode byte of its own encoding
(R134, R135). -/
theorem exec_of_not_admitted {i : Instr} {s : State} (h : i.admitted s.launch = false) :
    ∃ op ∈ (encode i).head?, exec i s = raiseUnimplemented op s := by
  cases i with
  | nop | jrE | jpCc | callCc => exact ⟨_, rfl, if_neg (Bool.eq_false_iff.1 h)⟩
  | ldRN | ldHLN | ldRR | ldRHL | ldHLR | ldRpNN | addR | addHL | addN | adcR | adcHL | adcN | subR | subHL | subN
  | sbcR | sbcHL | sbcN | andR | andHL | andN | xorR | xorHL | xorN | orR | orHL | orN | cpR | cpHL | cpN | incR | incHL
  | decR | decHL | incRp | decRp | ldHLSPe | push | pop | call | rst | ret | jp | jrCc | retCc | ei | di => cases h
  | _ => exact ⟨_, rfl, rfl⟩

/-- Whatever bytes follow an opcode that the launch does not admit, the instruction raises UnimplementedOpcode with that
opcode. -/
theorem exec_decodeOp_of_not_admitted {s : State} {op : Byte} (h : ¬Admitted s.launch op) (lo hi : Byte) :
    exec (decodeOp op lo hi) s = raiseUnimplemented op s := by
  have hadm : (decodeOp op lo hi).admitted s.launch = false := by
    rw [admitted_decodeOp, ← Bool.not_eq_true, opcodeAdmitted_iff]
    exact h
  obtain ⟨op', hhead, hexec⟩ := exec_of_not_admitted hadm
  rw [encode_decodeOp, List.head?_cons] at hhead
  cases hhead
  exact hexec

theorem step_of_not_admitted {s : State} (hen : Enabled s) (h : ¬Admitted s.launch (s.busRead s.pc)) :
    step s = raiseUnimplemented (s.busRead s.pc) s := by
  rw [step_of_enabled hen, State.fetchInstr_of_not_admitted h, exec_decodeOp_of_not_admitted h]

/-- Settles O11: no launch admits one of the 45 bytes. -/
theorem faultingBytesRaiseUnimplemented : Obligations.FaultingBytesRaiseUnimplemented := by
  refine ⟨rfl, fun s hen hmem => ?_⟩
  have hadm : ¬Admitted s.launch (s.busRead s.pc) := fun h => h.1 hmem
  exact ⟨State.fetchBytes_of_not_admitted hadm, step_of_not_admitted hen hadm⟩

/-- Settles O53: each optional instruction is admitted by its own flag alone. -/
theorem optionalRowsFaultUnlessAdmitted : Obligations.OptionalRowsFaultUnlessAdmitted := by
  refine ⟨rfl, fun _ => rfl, fun _ _ => rfl, fun _ _ => rfl, fun s i h => exec_of_not_admitted ?_⟩
  obtain ⟨rfl, h⟩ | ⟨e, rfl, h⟩ | ⟨cc, nn, rfl, h⟩ | ⟨cc, nn, rfl, h⟩ := h <;> exact h

/-! ## The step -/

/-- Settles O6: every instruction ends in a next state (`exec_end`). -/
theorem enabledStepAlwaysGivesANextState : Obligations.EnabledStepAlwaysGivesANextState := by
  intro s hen
  obtain ⟨t, ht, -⟩ := step_end s hen
  exact ⟨t, ht⟩

/-- A step runs the decoding of the three bytes at PC; of an opcode not admitted, any operand bytes give the same. -/
theorem step_eq_exec_decodeOp {s : State} (hen : Enabled s) :
    step s = exec (decodeOp (s.busRead s.pc) (s.busRead (s.pc + 1#16)) (s.busRead (s.pc + 2#16))) s := by
  by_cases h : Admitted s.launch (s.busRead s.pc)
  · rw [step_of_enabled hen, State.fetchInstr_of_admitted h]
  · rw [step_of_not_admitted hen h, exec_decodeOp_of_not_admitted h]

theorem eq_decodeOp_of_decode {op lo hi : Byte} {i : Instr} {rest : List Byte}
    (h : decode [op, lo, hi] = .ok (i, rest)) : i = decodeOp op lo hi := by
  simp only [decode] at h
  split at h
  · cases h
  · cases h
    rfl

/-- Settles O5: what the bytes at PC decode to is what the step runs, and the decoder gives only well-formed
instructions. -/
theorem stepRunsTheDecodedInstruction : Obligations.StepRunsTheDecodedInstruction := by
  intro s i rest hen hdec
  obtain rfl := eq_decodeOp_of_decode hdec
  exact ⟨step_eq_exec_decodeOp hen, wellFormed_decodeOp _ _ _⟩

end Sys2Proof.Machine
end

/-! The loads (40_loads): a load into a register or a pair changes its destination alone, and a store at HL changes
memory as the bus writes it. One lemma for each of the three effects, over the instruction that has it. -/

section

namespace Sys2Proof.Machine

/-! ## What a completed step leaves -/

@[simp] theorem State.retire_getReg (s : State) (p : Addr) (n : Nat) (r : Reg8) :
    (s.retire p n).getReg r = s.getReg r :=
  State.getReg_congr rfl rfl rfl rfl rfl rfl rfl r

@[simp] theorem State.retire_getPair (s : State) (p : Addr) (n : Nat) (q : RegPair) :
    (s.retire p n).getPair q = s.getPair q := by
  cases q <;> rfl

theorem keepsMemory_of_eq {s t : State} (hlaunch : t.launch = s.launch) (hbank : t.bank = s.bank)
    (hram : t.ram = s.ram) : KeepsMemory s t :=
  ⟨hram, State.busRead_congr hlaunch hbank hram⟩

/-- The cost of a step that completes from `u`, an effect on `s` that leaves CLK alone. -/
theorem costs_retire {s u : State} {row : CycleTable → Nat} {n : Nat} (p : Addr) (hclk : u.clk = s.clk)
    (hn : row cycleTableR708 = n) : Costs s (u.retire p (row s.launch.cycleTable)) row n := by
  have hrow : (u.retire p (row s.launch.cycleTable)).clk = s.clk + row s.launch.cycleTable := by
    rw [State.retire_clk, hclk]
  exact ⟨hrow, fun htable => by rw [hrow, htable, hn]⟩

/-! ## Register and pair writes -/

theorem State.getPair_setPair_same (s : State) (p : RegPair) (v : Addr) : (s.setPair p v).getPair p = v := by
  cases p with
  | bc | de | hl => exact word_hi_lo v
  | sp => rfl

theorem State.setPair_sp_of_ne (s : State) {p : RegPair} (v : Addr) (h : p ≠ .sp) : (s.setPair p v).sp = s.sp := by
  cases p with
  | bc | de | hl => rfl
  | sp => exact absurd rfl h

theorem State.setReg_keepsRegs (s : State) (dst : Reg8) (v : Byte) : KeepsRegs s (s.setReg dst v) [dst] :=
  fun r hr => s.getReg_setReg_ne dst r v (List.ne_of_not_mem_cons hr)

theorem State.setReg_setReg_keepsRegs (s : State) (r₁ r₂ : Reg8) (v₁ v₂ : Byte) :
    KeepsRegs s ((s.setReg r₁ v₁).setReg r₂ v₂) [r₁, r₂] := by
  intro r hr
  rw [(s.setReg r₁ v₁).setReg_keepsRegs r₂ v₂ r (List.not_mem_of_not_mem_cons hr),
    s.getReg_setReg_ne r₁ r v₁ (List.ne_of_not_mem_cons hr)]

/-- A pair write is a write to each of its two registers; one to SP is to no general register. -/
theorem State.setPair_keepsRegs (s : State) (p : RegPair) (v : Addr) :
    KeepsRegs s (s.setPair p v) (pairRegs p) := by
  cases p with
  | bc => exact s.setReg_setReg_keepsRegs .b .c (hiByte v) (loByte v)
  | de => exact s.setReg_setReg_keepsRegs .d .e (hiByte v) (loByte v)
  | hl => exact s.setReg_setReg_keepsRegs .h .l (hiByte v) (loByte v)
  | sp => exact fun r _ => State.getReg_congr rfl rfl rfl rfl rfl rfl rfl r

/-- The two bytes of a word are its quotient and its remainder by 256 (00_scope R12). -/
theorem toNat_bytes_of_word_eq {hi lo : Byte} {v : Addr} (h : word hi lo = v) :
    hi.toNat = v.toNat / 256 ∧ lo.toNat = v.toNat % 256 := by
  rw [← hiByte_toNat, ← loByte_toNat, ← h, hiByte_word, loByte_word]
  exact ⟨rfl, rfl⟩

/-! ## The three effects -/

section
variable {s : State} {i : Instr} {pc : Addr} {row : CycleTable → Nat} {n : Nat}

/-- An instruction whose one effect is to write a register. -/
theorem exec_of_setReg {dst : Reg8} {v : Byte}
    (he : exec i s = complete (s.setReg dst v) pc (row s.launch.cycleTable)) (hn : row cycleTableR708 = n) :
    ∃ t, exec i s = .next t ∧ t.getReg dst = v ∧ t.pc = pc ∧ Costs s t row n ∧ t.f = s.f ∧ t.sp = s.sp ∧
      KeepsRegs s t [dst] ∧ KeepsSystem s t ∧ KeepsMemory s t := by
  refine ⟨_, he, ?_, rfl, costs_retire pc (s.setReg_clk dst v) hn, s.setReg_f dst v, s.setReg_sp dst v, fun r hr => ?_,
    ⟨s.setReg_ime dst v, s.setReg_bank dst v, s.setReg_fault dst v, s.setReg_launch dst v⟩,
    keepsMemory_of_eq (s.setReg_launch dst v) (s.setReg_bank dst v) (s.setReg_ram dst v)⟩
  · rw [State.retire_getReg, State.getReg_setReg_same]
  · rw [State.retire_getReg, s.setReg_keepsRegs dst v r hr]

/-- An instruction whose one effect is to write a pair. -/
theorem exec_of_setPair {p : RegPair} {v : Addr}
    (he : exec i s = complete (s.setPair p v) pc (row s.launch.cycleTable)) (hn : row cycleTableR708 = n) :
    ∃ t, exec i s = .next t ∧ t.getPair p = v ∧ t.pc = pc ∧ Costs s t row n ∧ t.f = s.f ∧ (p ≠ .sp → t.sp = s.sp) ∧
      KeepsRegs s t (pairRegs p) ∧ KeepsSystem s t ∧ KeepsMemory s t := by
  refine ⟨_, he, ?_, rfl, costs_retire pc (s.setPair_clk p v) hn, s.setPair_f p v, s.setPair_sp_of_ne v, fun r hr => ?_,
    ⟨s.setPair_ime p v, s.setPair_bank p v, s.setPair_fault p v, s.setPair_launch p v⟩,
    keepsMemory_of_eq (s.setPair_launch p v) (s.setPair_bank p v) (s.setPair_ram p v)⟩
  · rw [State.retire_getPair, State.getPair_setPair_same]
  · rw [State.retire_getReg, s.setPair_keepsRegs p v r hr]

/-- An instruction whose one effect is to store at HL, where that raises no RomWrite: RAM alone may differ
(`State.busWrite_ok`). -/
theorem exec_of_writeHL {v : Byte} (hrom : ¬RomFaults s s.hl)
    (he : exec i s = completeWrite s (s.writeHL v) pc (row s.launch.cycleTable)) (hn : row cycleTableR708 = n) :
    ∃ t, exec i s = .next t ∧ t.busRead s.hl = storedByte s s.hl v ∧ t.pc = pc ∧ Costs s t row n ∧
      StoresOnly s t [s.hl] ∧ t.f = s.f ∧ t.sp = s.sp ∧ KeepsRegs s t [] ∧ KeepsSystem s t := by
  obtain ⟨u, hwrite⟩ := State.busWrite_ok_of_not_romFaults v hrom
  have hnext : exec i s = .next (u.retire pc (row s.launch.cycleTable)) :=
    he.trans (congrArg (completeWrite s · pc _) hwrite)
  have hread := State.busRead_busWrite_same hwrite
  have hstores := State.busWrite_storesOnly hwrite
  obtain ⟨m, rfl⟩ : ∃ m, u = { s with ram := m } := ⟨_, (State.busWrite_ok hwrite).1⟩
  exact ⟨_, hnext, hread, rfl, costs_retire pc rfl hn, hstores, rfl, rfl,
    fun r _ => State.getReg_congr rfl rfl rfl rfl rfl rfl rfl r, ⟨rfl, rfl, rfl, rfl⟩⟩

end

/-! ## The load instructions

In a namespace of their own, so that `storesAtHL` still names the model's list `Sys2Proof.storesAtHL` outside it. -/

namespace Loads

/-- Settles O34: each of the three loads is one register write of `s` (`exec_of_setReg`). -/
theorem loadsIntoARegister : Obligations.LoadsIntoARegister := fun _ _ =>
  ⟨fun _ => ⟨rfl, exec_of_setReg rfl rfl⟩, fun _ => ⟨rfl, exec_of_setReg rfl rfl⟩, rfl, exec_of_setReg rfl rfl⟩

/-- Settles O35: both stores are one byte write at HL (`exec_of_writeHL`). -/
theorem storesAtHL : Obligations.StoresAtHL := fun _ hrom =>
  ⟨fun _ => ⟨rfl, exec_of_writeHL hrom rfl rfl⟩, fun _ => ⟨rfl, exec_of_writeHL hrom rfl rfl⟩⟩

/-- Settles O36: one pair write (`exec_of_setPair`), and the two bytes that the pair read after it is made of. -/
theorem loadsIntoAPair : Obligations.LoadsIntoAPair := by
  intro s p nn
  obtain ⟨t, hnext, hpair, hpc, hcosts, hf, hsp, hregs, hsystem, hmemory⟩ :=
    exec_of_setPair (s := s) (i := .ldRpNN p nn) (row := CycleTable.ldRpNN) rfl rfl
  refine ⟨rfl, t, hnext, hpair, hpc, hcosts, hf, hsp, hregs, hsystem, hmemory, ?_⟩
  cases p with
  | bc | de | hl => exact toNat_bytes_of_word_eq hpair
  | sp => exact hpair

end Loads

end Sys2Proof.Machine
end

/-! The arithmetic and logic instructions (41_alu): every ALU instruction writes A and F from one table of results, INC
and DEC of a byte write it with Z, N and H, and LD HL,SP+e writes HL and F. -/

section

namespace Sys2Proof.Machine

/-! ## Effects that write F beside a register or a byte of memory -/

section
variable {s : State} {i : Instr} {pc : Addr} {row : CycleTable → Nat} {n : Nat}

/-- An instruction whose one effect is to write a register and F. -/
theorem exec_of_setReg_withF {dst : Reg8} {v w : Byte} {zf nf hf cf : Bool}
    (he : exec i s = complete { s.setReg dst v with f := w } pc (row s.launch.cycleTable))
    (hn : row cycleTableR708 = n) (hflags : FlagsAre { s.setReg dst v with f := w } zf nf hf cf) :
    ∃ t, exec i s = .next t ∧ t.getReg dst = v ∧ FlagsAre t zf nf hf cf ∧ t.pc = pc ∧ Costs s t row n ∧ t.sp = s.sp ∧
      KeepsRegs s t [dst] ∧ KeepsSystem s t ∧ KeepsMemory s t := by
  have hregs (r : Reg8) :
      (State.retire { s.setReg dst v with f := w } pc (row s.launch.cycleTable)).getReg r = (s.setReg dst v).getReg r :=
    State.getReg_congr rfl rfl rfl rfl rfl rfl rfl r
  refine ⟨_, he, ?_, hflags, rfl, costs_retire pc (s.setReg_clk dst v) hn, s.setReg_sp dst v, fun r hr => ?_,
    ⟨s.setReg_ime dst v, s.setReg_bank dst v, s.setReg_fault dst v, s.setReg_launch dst v⟩,
    keepsMemory_of_eq (s.setReg_launch dst v) (s.setReg_bank dst v) (s.setReg_ram dst v)⟩
  · rw [hregs, State.getReg_setReg_same]
  · rw [hregs, s.setReg_keepsRegs dst v r hr]

/-- INC or DEC of a register, from what its helper gives. -/
theorem exec_of_setReg_setZNH {dst : Reg8} {out : StepResult}
    (he : exec i s = complete ((s.setReg dst out.res).setZNH out) pc (row s.launch.cycleTable))
    (hn : row cycleTableR708 = n) :
    ∃ t, exec i s = .next t ∧ t.getReg dst = out.res ∧ FlagsAre t out.z out.n out.h (s.f.getLsbD 4) ∧ t.pc = pc ∧
      Costs s t row n ∧ t.sp = s.sp ∧ KeepsRegs s t [dst] ∧ KeepsSystem s t ∧ KeepsMemory s t := by
  have hflags := (s.setReg dst out.res).setZNH_bits out
  rw [State.setReg_f] at hflags
  exact exec_of_setReg_withF he hn hflags

/-- INC or DEC of the byte at HL, from what its helper gives, where the store raises no RomWrite: the store changes RAM
alone (`State.busWrite_ok`), and the flags F alone. -/
theorem exec_of_writeHL_setZNH {out : StepResult} (hrom : ¬RomFaults s s.hl)
    (he : exec i s = completeWrite s ((s.writeHL out.res).map fun t => t.setZNH out) pc (row s.launch.cycleTable))
    (hn : row cycleTableR708 = n) :
    ∃ t, exec i s = .next t ∧ t.busRead s.hl = storedByte s s.hl out.res ∧
      FlagsAre t out.z out.n out.h (s.f.getLsbD 4) ∧ t.pc = pc ∧ Costs s t row n ∧ StoresOnly s t [s.hl] ∧
      t.sp = s.sp ∧ KeepsRegs s t [] ∧ KeepsSystem s t := by
  obtain ⟨u, hwrite⟩ := State.busWrite_ok_of_not_romFaults out.res hrom
  have hnext : exec i s = .next ((u.setZNH out).retire pc (row s.launch.cycleTable)) :=
    he.trans (congrArg (fun written => completeWrite s (written.map fun t => t.setZNH out) pc _) hwrite)
  have hread := State.busRead_busWrite_same hwrite
  have hstores := State.busWrite_storesOnly hwrite
  obtain ⟨m, rfl⟩ : ∃ m, u = { s with ram := m } := ⟨_, (State.busWrite_ok hwrite).1⟩
  exact ⟨_, hnext, hread, State.setZNH_bits _ out, rfl, costs_retire pc rfl hn, hstores, rfl,
    fun r _ => State.getReg_congr rfl rfl rfl rfl rfl rfl rfl r, ⟨rfl, rfl, rfl, rfl⟩⟩

end

/-! ## The eight ALU operations (R309) -/

/-- The operations by name, so that the encodings and meanings of their 24 rows of the table are stated once. -/
inductive AluOp where
  | add | adc | sub | sbc | and | xor | or | cp

/-- The instruction with each second operand. -/
def AluOp.form : AluOp → Second → Instr
  | .add => addForm
  | .adc => adcForm
  | .sub => subForm
  | .sbc => sbcForm
  | .and => andForm
  | .xor => xorForm
  | .or => orForm
  | .cp => cpForm

/-- The field y of the opcode (R129). -/
def AluOp.field : AluOp → BitVec 3
  | .add => 0b000#3
  | .adc => 0b001#3
  | .sub => 0b010#3
  | .sbc => 0b011#3
  | .and => 0b100#3
  | .xor => 0b101#3
  | .or => 0b110#3
  | .cp => 0b111#3

/-- What the operation writes to A and F from the second operand `v`; CP writes A back (R305). -/
def AluOp.result (s : State) (v : Byte) : AluOp → AluResult
  | .add => add8 s.a v false s.cf
  | .adc => add8 s.a v true s.cf
  | .sub => sub8 s.a v false s.cf
  | .sbc => sub8 s.a v true s.cf
  | .and => and8 s.a v
  | .xor => xor8 s.a v
  | .or => or8 s.a v
  | .cp => { res := s.a, flags := cp8 s.a v }

theorem AluOp.encode_form (op : AluOp) (x : Second) : encode (op.form x) = x.bytes op.field := by
  cases op <;> cases x <;> rfl

theorem AluOp.exec_form (op : AluOp) (s : State) (x : Second) :
    exec (op.form x) s =
      complete (s.setAlu (op.result s (x.value s))) (s.pc + x.length) (x.row s.launch.cycleTable) := by
  cases op <;> cases x <;> rfl

theorem row_cycleTableR708 (x : Second) : x.row cycleTableR708 = x.cost := by
  cases x <;> rfl

/-- What an ALU instruction does: A and F from the operation's result, and its frame. -/
theorem AluOp.exec_form_of_flags {op : AluOp} {s : State} {x : Second} {g : FlagBits}
    (hg : (op.result s (x.value s)).flags = g) :
    ∃ t, exec (op.form x) s = .next t ∧ t.a = (op.result s (x.value s)).res ∧ FlagsAre t g.z g.n g.h g.c ∧
      AluFrame s t x := by
  subst hg
  exact exec_of_setReg_withF (dst := .a) (op.exec_form s x) (row_cycleTableR708 x) (packFlags_bits _)

/-! ## The ALU instructions -/

/-- Settles O37, from `Add8` in natural numbers (`add8_spec`); the carry in is 0 for ADD and C for ADC. -/
theorem addAndAdcWriteSumAndFlags : Obligations.AddAndAdcWriteSumAndFlags := by
  intro s x
  obtain ⟨haddSum, haddFlags⟩ := add8_spec s.a (x.value s) false s.cf
  obtain ⟨hadcSum, hadcFlags⟩ := add8_spec s.a (x.value s) true s.cf
  obtain ⟨t, hadd, hta, haddRest⟩ := AluOp.exec_form_of_flags (op := .add) haddFlags
  obtain ⟨u, hadc, hua, hadcRest⟩ := AluOp.exec_form_of_flags (op := .adc) hadcFlags
  refine ⟨⟨AluOp.add.encode_form x, t, hadd, ?_, haddRest⟩, AluOp.adc.encode_form x, u, hadc, ?_, hadcRest⟩
  · rw [hta]; exact haddSum
  · rw [hua]; exact hadcSum

/-- With no carry in, the flags of a subtraction compare its operands (R301, R305). -/
theorem sub8_spec_of_no_carry (lhs rhs : Byte) (cf : Bool) :
    ((sub8 lhs rhs false cf).res.toNat : Int) = ((lhs.toNat : Int) - rhs.toNat) % 256 ∧
    (sub8 lhs rhs false cf).flags =
      { z := decide (lhs.toNat = rhs.toNat)
        n := true
        h := decide (lhs.toNat % 16 < rhs.toNat % 16)
        c := decide (lhs.toNat < rhs.toNat) } := by
  have hlhs := lhs.isLt
  have hrhs := rhs.isLt
  have hcarry : carryIn false cf = 0 := rfl
  obtain ⟨hdiff, hflags⟩ := sub8_spec lhs rhs false cf
  rw [hcarry, Int.natCast_zero, Int.add_zero] at hdiff hflags
  refine ⟨hdiff, hflags.trans ?_⟩
  simp only [FlagBits.mk.injEq, decide_eq_decide, true_and]
  omega

/-- Settles O38, from `Sub8` in integers; the carry in is 0 for SUB and C for SBC. -/
theorem subAndSbcWriteDifferenceAndFlags : Obligations.SubAndSbcWriteDifferenceAndFlags := by
  intro s x
  obtain ⟨hsubDiff, hsubFlags⟩ := sub8_spec_of_no_carry s.a (x.value s) s.cf
  obtain ⟨hsbcDiff, hsbcFlags⟩ := sub8_spec s.a (x.value s) true s.cf
  obtain ⟨t, hsub, hta, hsubRest⟩ := AluOp.exec_form_of_flags (op := .sub) hsubFlags
  obtain ⟨u, hsbc, hua, hsbcRest⟩ := AluOp.exec_form_of_flags (op := .sbc) hsbcFlags
  refine ⟨⟨AluOp.sub.encode_form x, t, hsub, ?_, hsubRest⟩, AluOp.sbc.encode_form x, u, hsbc, ?_, hsbcRest⟩
  · rw [hta]; exact hsubDiff
  · rw [hua]; exact hsbcDiff

/-- Settles O40: the flags of the subtraction, and the A that is written back. -/
theorem compareWritesFlagsOnly : Obligations.CompareWritesFlagsOnly := fun s x =>
  ⟨AluOp.cp.encode_form x, AluOp.exec_form_of_flags (op := .cp) (sub8_spec_of_no_carry s.a (x.value s) false).2⟩

/-- A logic operation's flags are N = C = 0, its own H, and Z of the A it leaves (R302, R303, R304). -/
theorem AluOp.exec_form_of_logic8 {op : AluOp} {s : State} {x : Second} {res : Byte} {hf : Bool}
    (hr : op.result s (x.value s) = logic8 res hf) :
    ∃ t, exec (op.form x) s = .next t ∧ t.a = res ∧ FlagsAre t (decide (t.a.toNat = 0)) false hf false ∧
      AluFrame s t x := by
  have hflags : (op.result s (x.value s)).flags = ⟨decide (res.toNat = 0), false, hf, false⟩ := by
    rw [hr, logic8, beq_zero_iff_toNat]
  obtain ⟨t, hnext, ha, hbits, hframe⟩ := AluOp.exec_form_of_flags hflags
  rw [hr] at ha
  rw [← show t.a = res from ha] at hbits
  exact ⟨t, hnext, ha, hbits, hframe⟩

/-- Settles O39: each operation is its own bitwise operation of `logic8`. -/
theorem logicWritesBitsAndFlags : Obligations.LogicWritesBitsAndFlags := by
  intro s x
  obtain ⟨t, hand, hta, handRest⟩ := AluOp.exec_form_of_logic8 (op := .and) (s := s) (x := x) rfl
  obtain ⟨u, hxor, hua, hxorRest⟩ := AluOp.exec_form_of_logic8 (op := .xor) (s := s) (x := x) rfl
  obtain ⟨v, hor, hva, horRest⟩ := AluOp.exec_form_of_logic8 (op := .or) (s := s) (x := x) rfl
  refine ⟨⟨AluOp.and.encode_form x, t, hand, fun k => ?_, handRest⟩,
    ⟨AluOp.xor.encode_form x, u, hxor, fun k => ?_, hxorRest⟩,
    AluOp.or.encode_form x, v, hor, fun k => ?_, horRest⟩
  · rw [hta, BitVec.getLsbD_and]
  · rw [hua, BitVec.getLsbD_xor]
  · rw [hva, BitVec.getLsbD_or]

/-! ## Increments, decrements and LD HL,SP+e -/

/-- Settles O41, from `Inc8` and `Dec8` in natural numbers. -/
theorem incDecRegisterKeepsCarry : Obligations.IncDecRegisterKeepsCarry := by
  intro s r
  obtain ⟨t, hinc, htreg, hincRest⟩ :=
    exec_of_setReg_setZNH (i := .incR r) (row := CycleTable.incDecR) (out := inc8 (s.getReg r)) rfl rfl
  obtain ⟨u, hdec, hureg, hdecRest⟩ :=
    exec_of_setReg_setZNH (i := .decR r) (row := CycleTable.incDecR) (out := dec8 (s.getReg r)) rfl rfl
  rw [inc8_spec] at htreg hincRest
  rw [dec8_spec] at hureg hdecRest
  refine ⟨⟨rfl, t, hinc, ?_, hincRest⟩, rfl, u, hdec, ?_, hdecRest⟩
  · rw [htreg]; exact BitVec.toNat_add _ _
  · rw [hureg, Nat.add_comm]; exact BitVec.toNat_sub _ _

/-- Settles O42, from the same flags of the byte read, and the store of the result as the bus makes it. -/
theorem incDecAtHLKeepsCarry : Obligations.IncDecAtHLKeepsCarry := by
  intro s hrom
  have hinc := exec_of_writeHL_setZNH (i := .incHL) (row := CycleTable.incDecHL) (out := inc8 s.readHL) hrom rfl rfl
  have hdec := exec_of_writeHL_setZNH (i := .decHL) (row := CycleTable.incDecHL) (out := dec8 s.readHL) hrom rfl rfl
  rw [inc8_spec] at hinc
  rw [dec8_spec] at hdec
  exact ⟨⟨rfl, hinc⟩, rfl, hdec⟩

/-- Settles O43: one pair write (`exec_of_setPair`). -/
theorem incDecPairWritesNoFlag : Obligations.IncDecPairWritesNoFlag := by
  intro s p
  obtain ⟨t, hinc, hpair, hpc, hcosts, hf, hrest⟩ :=
    exec_of_setPair (s := s) (i := .incRp p) (row := CycleTable.incDecRp) rfl rfl
  obtain ⟨u, hdec, hupair, hupc, hucosts, huf, hurest⟩ :=
    exec_of_setPair (s := s) (i := .decRp p) (row := CycleTable.incDecRp) rfl rfl
  refine ⟨⟨rfl, t, hinc, ?_, hf, hpc, hcosts, hrest⟩, rfl, u, hdec, ?_, huf, hupc, hucosts, hurest⟩
  · rw [hpair]; exact BitVec.toNat_add _ _
  · rw [hupair, Nat.add_comm]; exact BitVec.toNat_sub _ _

/-- The low-byte addition of LD HL,SP+e in natural numbers (R340). -/
theorem spPlusFlags_spec (sp : Addr) (e : Byte) :
    spPlusFlags sp e =
      { z := false
        n := false
        h := decide (sp.toNat % 16 + e.toNat % 16 > 15)
        c := decide (sp.toNat % 256 + e.toNat > 255) } := by
  have hcarry : carryIn false false = 0 := rfl
  have hnibble : sp.toNat % 256 % 16 = sp.toNat % 16 := Nat.mod_mod_of_dvd _ (by decide)
  rw [spPlusFlags, (add8_spec (loByte sp) e false false).2, hcarry, loByte_toNat, hnibble]
  rfl

theorem toNat_add_sext16 (v : Addr) (e : Byte) :
    ((v + sext16 e).toNat : Int) = ((v.toNat : Int) + e.toInt) % 65536 := by
  rw [sext16, BitVec.signExtend, BitVec.toNat_add, BitVec.toNat_ofInt]
  omega

/-- Settles O44: HL and F are written, from `toNat_add_sext16` and `spPlusFlags_spec`. -/
theorem loadHLFromSpPlusOffset : Obligations.LoadHLFromSpPlusOffset := by
  intro s e
  have hflags := packFlags_bits (spPlusFlags s.sp e)
  rw [spPlusFlags_spec] at hflags
  have hhl : (s.setHl (s.sp + sext16 e)).hl = s.sp + sext16 e := s.getPair_setPair_same .hl _
  refine ⟨rfl, _, rfl, ?_, ?_, rfl, costs_retire (row := CycleTable.ldHLSPe) _ rfl rfl, rfl, ?_,
    ⟨rfl, rfl, rfl, rfl⟩, keepsMemory_of_eq rfl rfl rfl⟩
  · exact (congrArg (fun v : Addr => (v.toNat : Int)) hhl).trans (toNat_add_sext16 s.sp e)
  · rw [spPlusFlags_spec]; exact hflags
  · exact s.setPair_keepsRegs .hl (s.sp + sext16 e)

end Sys2Proof.Machine
end

/-! The stack (42_stack_calls) and RET cc (43_control R453): what a push leaves in memory, one lemma over the
instructions that push, the pair views that POP writes, and the round trips. -/

section

namespace Sys2Proof.Machine

/-! ## Word writes at any address -/

/-- Two effects one after the other store at the addresses of both: routing depends on the launch parameters alone. -/
theorem storesOnly_trans {s t u : State} {l₁ l₂ : List Addr} (hlaunch : t.launch = s.launch) (h₁ : StoresOnly s t l₁)
    (h₂ : StoresOnly t u l₂) : StoresOnly s u (l₁ ++ l₂) := by
  obtain ⟨hread₁, hram₁⟩ := h₁
  obtain ⟨hread₂, hram₂⟩ := h₂
  simp only [State.route_congr hlaunch] at hread₂ hram₂
  constructor
  · intro x hx
    rw [hread₂ x (hx.imp_right fun h a ha => h a (List.mem_append_right l₁ ha)),
      hread₁ x (hx.imp_right fun h a ha => h a (List.mem_append_left l₂ ha))]
  · intro j hj
    rw [hram₂ j fun a ha => hj a (List.mem_append_right l₁ ha), hram₁ j fun a ha => hj a (List.mem_append_left l₂ ha)]

/-- What a write leaves at an address does not depend on the stores made before it: where the write is dropped, so is
every other. -/
theorem storedByte_of_storesOnly {s t : State} {stored : List Addr} (hlaunch : t.launch = s.launch)
    (h : StoresOnly s t stored) (a : Addr) (v : Byte) : storedByte t a v = storedByte s a v := by
  simp only [storedByte, RomIgnores, hlaunch]
  split
  · next hignored => exact h.1 a (.inl (State.route_cart_iff.2 ⟨hignored.1, hignored.2.1⟩))
  · rfl

theorem storedByte_of_plain {s : State} {a : Addr} (v : Byte) (hroute : s.route a ≠ .cart) (ha : a ≠ 0xFF44#16) :
    storedByte s a v = v := by
  have hignored : ¬RomIgnores s a := fun h => hroute (State.route_cart_iff.2 ⟨h.1, h.2.1⟩)
  rw [storedByte, if_neg hignored, if_neg ha]

theorem not_romFaults_of_route {s : State} {a : Addr} (h : s.route a ≠ .cart) : ¬RomFaults s a :=
  fun hfaults => h (State.route_cart_iff.2 ⟨hfaults.1, hfaults.2.1⟩)

/-- A word write is its two byte writes (20_memory R76): the second leaves the first byte alone. -/
theorem State.busWriteWord_stores {s u : State} {a v : Addr} (h : s.busWriteWord a v = .ok u) :
    u.busRead a = storedByte s a (loByte v) ∧ u.busRead (a + 1#16) = storedByte s (a + 1#16) (hiByte v) ∧
      StoresOnly s u [a, a + 1#16] := by
  rcases s.busWriteWord_cases a v with ⟨w, hw, -⟩ | ⟨t, u', hlow, hhigh, hw⟩ <;> cases h.symm.trans hw
  have hlaunch : t.launch = s.launch := by rw [(State.busWrite_ok hlow).1]
  have hfirst := State.busWrite_storesOnly hlow
  have hsecond := State.busWrite_storesOnly hhigh
  have hkept : u.busRead a = t.busRead a := by
    refine hsecond.1 a (or_iff_not_imp_left.2 fun hcart => ?_)
    simpa only [List.mem_singleton, forall_eq] using State.route_succ_ne hcart
  refine ⟨?_, ?_, storesOnly_trans hlaunch hfirst hsecond⟩
  · rw [hkept, State.busRead_busWrite_same hlow]
  · rw [State.busRead_busWrite_same hhigh, storedByte_of_storesOnly hlaunch hfirst]

/-! ## Pushes -/

theorem State.push16_ok_of_pushAllowed {s : State} (v : Addr) (h : PushAllowed s) : ∃ u, s.push16 v = .ok u := by
  cases hpush : s.push16 v with
  | ok u => exact ⟨u, rfl⟩
  | error w =>
    rcases State.push16_error hpush with ⟨rfl, hfaults⟩ | ⟨rfl, -, hfaults⟩
    · exact absurd hfaults h.1
    · exact absurd hfaults h.2

/-- A push is a word write at the new SP (42_stack_calls R400), and SP and RAM alone may differ (`State.push16_ok`). -/
theorem State.push16_pushed {s u : State} {v : Addr} (h : s.push16 v = .ok u) : Pushed s u v := by
  have hstores := State.busWriteWord_stores (s := s.setSp (s.sp - 2#16)) h
  have hnext : s.sp - 2#16 + 1#16 = s.sp - 1#16 := by bv_omega
  rw [hnext] at hstores
  obtain ⟨hlow, hhigh, honly⟩ := hstores
  obtain ⟨m, rfl⟩ : ∃ m, u = { s with sp := s.sp - 2#16, ram := m } := ⟨_, (State.push16_ok h).1⟩
  exact ⟨rfl, hlow, hhigh, honly, rfl, fun r _ => State.getReg_congr rfl rfl rfl rfl rfl rfl rfl r, rfl, rfl, rfl, rfl⟩

theorem pushed_retire {s u : State} {v : Addr} (h : Pushed s u v) (p : Addr) (n : Nat) : Pushed s (u.retire p n) v := by
  obtain ⟨hsp, hlow, hhigh, hstores, hf, hregs, hsystem⟩ := h
  exact ⟨hsp, hlow, hhigh, hstores, hf, fun r hr => (u.retire_getReg p n r).trans (hregs r hr), hsystem⟩

/-- An instruction whose one effect is to push, where that raises no RomWrite. -/
theorem exec_of_push16 {s : State} {i : Instr} {v pc : Addr} {row : CycleTable → Nat} {n : Nat}
    (hallowed : PushAllowed s) (he : exec i s = completeWrite s (s.push16 v) pc (row s.launch.cycleTable))
    (hn : row cycleTableR708 = n) :
    ∃ t, exec i s = .next t ∧ Pushed s t v ∧ t.pc = pc ∧ Costs s t row n := by
  obtain ⟨u, hpush⟩ := State.push16_ok_of_pushAllowed v hallowed
  have hclk : u.clk = s.clk := by rw [(State.push16_ok hpush).1]
  exact ⟨_, he.trans (congrArg (completeWrite s · pc _) hpush), pushed_retire (State.push16_pushed hpush) pc _, rfl,
    costs_retire pc hclk hn⟩

/-- Settles O45: the one effect of PUSH is its push (`exec_of_push16`). -/
theorem pushStoresThePair : Obligations.PushStoresThePair := fun _ _ hallowed =>
  ⟨rfl, exec_of_push16 hallowed rfl rfl⟩

/-- An RST target is eight times its field y, and its encoding is the field's (R405, 30_encoding R130). -/
theorem rst_of_field : ∀ y : BitVec 3,
    encode (.rst (0b00#2 ++ y ++ 0b000#3)) = [0b11#2 ++ y ++ 0b111#3] ∧
      (zext16 (0b00#2 ++ y ++ 0b000#3)).toNat = 8 * y.toNat := by decide

/-- Settles O48: each is a push of the address that follows it (`exec_of_push16`), and a PC that the push leaves. -/
theorem callAndRestartPushTheReturnAddress : Obligations.CallAndRestartPushTheReturnAddress := by
  intro s hallowed
  refine ⟨fun nn => ⟨rfl, exec_of_push16 hallowed rfl rfl⟩, fun y => ?_⟩
  obtain ⟨hencode, htarget⟩ := rst_of_field y
  obtain ⟨t, hnext, hpushed, hpc, hcosts⟩ :=
    exec_of_push16 (i := .rst (0b00#2 ++ y ++ 0b000#3)) (row := CycleTable.rst) hallowed rfl rfl
  exact ⟨hencode, t, hnext, hpushed, by rw [hpc, htarget], hcosts⟩

/-! ## The stack pairs (10_state R40) -/

/-- The general registers of a stack pair; F is the other half of AF. -/
def stackPairRegs : StackPair → List Reg8
  | .bc => [.b, .c]
  | .de => [.d, .e]
  | .hl => [.h, .l]
  | .af => [.a]

theorem State.getStackPair_setStackPair_same (s : State) (q : StackPair) (v : Addr) :
    (s.setStackPair q v).getStackPair q = if q = .af then v &&& 0xFFF0#16 else v := by
  cases q with
  | bc | de | hl => exact word_hi_lo v
  | af => exact word_hi_lo_maskF v

theorem State.setStackPair_f_of_ne (s : State) {q : StackPair} (v : Addr) (h : q ≠ .af) :
    (s.setStackPair q v).f = s.f := by
  cases q with
  | bc | de | hl => rfl
  | af => exact absurd rfl h

theorem State.setStackPair_keepsRegs (s : State) (q : StackPair) (v : Addr) :
    KeepsRegs s (s.setStackPair q v) (stackPairRegs q) := by
  cases q with
  | bc => exact s.setPair_keepsRegs .bc v
  | de => exact s.setPair_keepsRegs .de v
  | hl => exact s.setPair_keepsRegs .hl v
  | af => exact s.setReg_keepsRegs .a (hiByte v)

theorem State.getStackPair_congr {s t : State} (hregs : KeepsRegs s t []) (hf : t.f = s.f) (q : StackPair) :
    t.getStackPair q = s.getStackPair q := by
  have hreg (r : Reg8) : t.getReg r = s.getReg r := hregs r List.not_mem_nil
  cases q with
  | bc => exact congrArg₂ word (hreg .b) (hreg .c)
  | de => exact congrArg₂ word (hreg .d) (hreg .e)
  | hl => exact congrArg₂ word (hreg .h) (hreg .l)
  | af => exact congrArg₂ word (hreg .a) hf

/-- The mask of a write to F (10_state R35) leaves a byte whose bits 3..0 are 0 as it is. -/
theorem maskF_of_low {v : Byte} (h : v &&& 0x0F#8 = 0#8) : v &&& 0xF0#8 = v :=
  calc v &&& 0xF0#8
      = v &&& 0x0F#8 ||| v &&& 0xF0#8 := by rw [h, BitVec.zero_or]
    _ = v &&& 0xFF#8 := BitVec.and_or_distrib_left.symm
    _ = v := BitVec.and_allOnes

/-- Writing back the pair read changes nothing. -/
theorem State.setStackPair_getStackPair (s : State) (q : StackPair) (h : s.f &&& 0x0F#8 = 0#8) :
    s.setStackPair q (s.getStackPair q) = s := by
  cases q with
  | bc => exact congrArg₂ (fun hi lo => { s with b := hi, c := lo }) (hiByte_word s.b s.c) (loByte_word s.b s.c)
  | de => exact congrArg₂ (fun hi lo => { s with d := hi, e := lo }) (hiByte_word s.d s.e) (loByte_word s.d s.e)
  | hl => exact congrArg₂ (fun hi lo => { s with h := hi, l := lo }) (hiByte_word s.h s.l) (loByte_word s.h s.l)
  | af =>
    have hflags : loByte s.af &&& 0xF0#8 = s.f := (congrArg (· &&& 0xF0#8) (loByte_word s.a s.f)).trans (maskF_of_low h)
    exact congrArg₂ (fun hi lo => { s with a := hi, f := lo }) (hiByte_word s.a s.f) hflags

@[simp] theorem State.retire_getStackPair (s : State) (p : Addr) (n : Nat) (q : StackPair) :
    (s.retire p n).getStackPair q = s.getStackPair q := by
  cases q <;> rfl

/-! ## Pops -/

/-- Settles O46: the pair written, of the state that has SP moved and every register as in `s`. -/
theorem popLoadsThePair : Obligations.PopLoadsThePair := by
  intro s q
  refine ⟨rfl, _, rfl, ?_, ?_, rfl, costs_retire (row := CycleTable.pop) _ ?_ rfl, ?_, fun r hr => ?_, ?_, ?_⟩
  · rw [State.retire_getStackPair, State.getStackPair_setStackPair_same, State.popValue]
  · exact s.popped.setStackPair_sp q _
  · exact s.popped.setStackPair_clk q _
  · exact s.popped.setStackPair_f_of_ne _
  · exact (State.retire_getReg _ _ _ r).trans (s.popped.setStackPair_keepsRegs q _ r hr)
  · exact ⟨s.popped.setStackPair_ime q _, s.popped.setStackPair_bank q _, s.popped.setStackPair_fault q _,
      s.popped.setStackPair_launch q _⟩
  · exact keepsMemory_of_eq (s.popped.setStackPair_launch q _) (s.popped.setStackPair_bank q _)
      (s.popped.setStackPair_ram q _)

/-- Settles O50: a return is one write of SP (`exec_of_setPair`), and one not taken writes SP as it was. -/
theorem returnsPopThePc : Obligations.ReturnsPopThePc := by
  intro s
  constructor
  · obtain ⟨t, hnext, hsp, hpc, hcosts, hf, -, hframe⟩ :=
      exec_of_setPair (s := s) (i := .ret) (p := .sp) (row := CycleTable.ret) rfl rfl
    exact ⟨rfl, t, hnext, hpc, hsp, hcosts, hf, hframe⟩
  intro cc
  refine ⟨rfl, ?_⟩
  by_cases hc : conditionHolds s.f cc = true
  · have htaken : exec (.retCc cc) s = complete s.popped s.popValue s.launch.cycleTable.retCcTaken :=
      if_pos ((cond_eq s cc).trans hc)
    obtain ⟨t, hnext, hsp, hpc, hcosts, hf, -, hregs, hsystem, hmemory⟩ :=
      exec_of_setPair (p := .sp) (row := CycleTable.retCcTaken) htaken rfl
    exact ⟨t, hnext, hf, hregs, hsystem, hmemory, by rw [if_pos hc]; exact ⟨hpc, hsp, hcosts⟩⟩
  · have hfalls : exec (.retCc cc) s = complete s (s.pc + 1#16) s.launch.cycleTable.retCcNotTaken :=
      if_neg ((cond_eq s cc).symm ▸ hc)
    obtain ⟨t, hnext, hsp, hpc, hcosts, hf, -, hregs, hsystem, hmemory⟩ :=
      exec_of_setPair (p := .sp) (v := s.sp) (row := CycleTable.retCcNotTaken) hfalls rfl
    exact ⟨t, hnext, hf, hregs, hsystem, hmemory, by rw [if_neg hc]; exact ⟨hpc, hsp, hcosts⟩⟩

/-! ## Round trips -/

/-- Both bytes of a push are plain RAM outside 0xFF44. -/
structure PlainStack (s : State) : Prop where
  lowRoute : s.route (s.sp - 2#16) ≠ .cart
  highRoute : s.route (s.sp - 1#16) ≠ .cart
  lowNe : s.sp - 2#16 ≠ 0xFF44#16
  highNe : s.sp - 1#16 ≠ 0xFF44#16

theorem PlainStack.pushAllowed {s : State} (h : PlainStack s) : PushAllowed s :=
  ⟨not_romFaults_of_route h.lowRoute, not_romFaults_of_route h.highRoute⟩

/-- A pop after a push on a plain stack reads the word pushed and restores SP. -/
theorem PlainStack.pop_of_pushed {s t : State} {v : Addr} (h : PlainStack s) (hpushed : Pushed s t v) :
    t.popValue = v ∧ t.popped.sp = s.sp := by
  obtain ⟨hsp, hlow, hhigh, -⟩ := hpushed
  have hnext : s.sp - 2#16 + 1#16 = s.sp - 1#16 := by bv_omega
  constructor
  · rw [State.popValue, State.busReadWord, hsp, hnext, hlow, hhigh, storedByte_of_plain _ h.lowRoute h.lowNe,
      storedByte_of_plain _ h.highRoute h.highNe, word_hi_lo]
  · rw [State.popped, State.setSp_sp, hsp, BitVec.sub_add_cancel]

/-- A POP of the pair that was pushed writes back what stands in it: it moves SP alone. -/
theorem PlainStack.exec_pop_of_pushed {s t : State} {q : StackPair} (h : PlainStack s) (hlow : s.f &&& 0x0F#8 = 0#8)
    (hpushed : Pushed s t (s.getStackPair q)) :
    exec (.pop q) t = complete t.popped (t.pc + 1#16) t.launch.cycleTable.pop := by
  obtain ⟨hvalue, -⟩ := h.pop_of_pushed hpushed
  obtain ⟨-, -, -, -, hf, hregs, -⟩ := hpushed
  have hpair : t.popValue = t.popped.getStackPair q :=
    hvalue.trans (State.getStackPair_congr (t := t.popped) hregs hf q).symm
  have hback : t.popped.setStackPair q t.popValue = t.popped := by
    rw [hpair]; exact t.popped.setStackPair_getStackPair q (hf ▸ hlow)
  exact congrArg (complete · (t.pc + 1#16) t.launch.cycleTable.pop) hback

/-- Settles O47: the pop reads the word pushed (`PlainStack.pop_of_pushed`), which is the pair itself or the address of
the instruction after the CALL. -/
theorem stackRoundTrips : Obligations.StackRoundTrips := by
  intro s hlowRoute hhighRoute hlowNe hhighNe
  have hplain : PlainStack s := ⟨hlowRoute, hhighRoute, hlowNe, hhighNe⟩
  refine ⟨fun q hlow => ?_, fun nn => ?_⟩
  · obtain ⟨t, hpush, hpushed, -⟩ :=
      exec_of_push16 (i := .push q) (row := CycleTable.push) hplain.pushAllowed rfl rfl
    obtain ⟨-, hsp⟩ := hplain.pop_of_pushed hpushed
    have hpop := hplain.exec_pop_of_pushed hlow hpushed
    obtain ⟨-, -, -, -, hf, hregs, -⟩ := hpushed
    have hkept : KeepsRegs s (t.popped.retire (t.pc + 1#16) t.launch.cycleTable.pop) [] := fun r hr =>
      (State.retire_getReg _ _ _ r).trans (hregs r hr)
    exact ⟨t, _, hpush, hpop, State.getStackPair_congr hkept hf q, hsp, hf, hkept⟩
  · obtain ⟨t, hcall, hpushed, -⟩ :=
      exec_of_push16 (i := .call nn) (row := CycleTable.call) hplain.pushAllowed rfl rfl
    obtain ⟨hvalue, hsp⟩ := hplain.pop_of_pushed hpushed
    exact ⟨t, _, hcall, rfl, hvalue, hsp⟩

end Sys2Proof.Machine
end

/-! Jumps and the conditional call (43_control), and NOP (44_system R502): a transfer that moves PC and CLK alone, and
its two ends where it is conditional. -/

section

namespace Sys2Proof.Machine

/-- The target of a relative jump is computed mod 2^16, whichever way the signed byte points (R452, R454). -/
theorem toNat_relTarget (pc : Addr) (e : Byte) :
    ((relTarget pc e).toNat : Int) = ((pc.toNat : Int) + 2 + e.toInt) % 65536 := by
  have hnext : (pc + 2#16).toNat = (pc.toNat + 2) % 65536 := BitVec.toNat_add pc 2#16
  rw [relTarget, toNat_add_sext16, hnext]
  omega

section
variable {s : State} {i : Instr} {pc : Addr} {row : CycleTable → Nat} {n : Nat}

/-- An instruction that completes with no effect on the state but PC and CLK. -/
theorem exec_of_complete (he : exec i s = complete s pc (row s.launch.cycleTable)) (hn : row cycleTableR708 = n) :
    ∃ t, exec i s = .next t ∧ t.pc = pc ∧ Costs s t row n ∧ OnlyPcClk s t :=
  ⟨_, he, rfl, costs_retire pc rfl hn, rfl, rfl, fun r _ => s.retire_getReg pc _ r, ⟨rfl, rfl, rfl, rfl⟩,
    keepsMemory_of_eq rfl rfl rfl⟩

/-- A conditional jump, to `pc` at the cost of `row`, else to `pcElse` at that of `rowElse`. -/
theorem exec_of_conditionalJump {cc : Cond} {pcElse : Addr} {rowElse : CycleTable → Nat} {nElse : Nat}
    (he : exec i s = if s.cond cc then complete s pc (row s.launch.cycleTable)
      else complete s pcElse (rowElse s.launch.cycleTable))
    (hn : row cycleTableR708 = n) (hnElse : rowElse cycleTableR708 = nElse) :
    ∃ t, exec i s = .next t ∧ OnlyPcClk s t ∧
      if conditionHolds s.f cc = true then t.pc = pc ∧ Costs s t row n
      else t.pc = pcElse ∧ Costs s t rowElse nElse := by
  rw [cond_eq] at he
  by_cases hc : conditionHolds s.f cc = true
  · obtain ⟨t, hnext, hpc, hcosts, hframe⟩ := exec_of_complete (he.trans (if_pos hc)) hn
    exact ⟨t, hnext, hframe, by rw [if_pos hc]; exact ⟨hpc, hcosts⟩⟩
  · obtain ⟨t, hnext, hpc, hcosts, hframe⟩ := exec_of_complete (he.trans (if_neg hc)) hnElse
    exact ⟨t, hnext, hframe, by rw [if_neg hc]; exact ⟨hpc, hcosts⟩⟩

end

/-- Settles O49: JP is one move of PC (`exec_of_complete`), and JR cc has its target in integers from
`toNat_relTarget`. -/
theorem jumpsSetThePc : Obligations.JumpsSetThePc := by
  intro s
  refine ⟨fun nn => ⟨rfl, exec_of_complete rfl rfl⟩, fun cc e => ⟨rfl, ?_⟩⟩
  obtain ⟨t, hnext, hframe, hbranch⟩ :=
    exec_of_conditionalJump (s := s) (i := .jrCc cc e) (row := CycleTable.jrCcTaken)
      (rowElse := CycleTable.jrCcNotTaken) rfl rfl rfl
  refine ⟨t, hnext, hframe, ?_⟩
  by_cases hc : conditionHolds s.f cc = true
  · rw [if_pos hc] at hbranch ⊢
    obtain ⟨hpc, hcosts⟩ := hbranch
    exact ⟨by rw [hpc, toNat_relTarget], hcosts⟩
  · rw [if_neg hc] at hbranch ⊢
    obtain ⟨hpc, hcosts⟩ := hbranch
    exact ⟨by rw [hpc]; exact BitVec.toNat_add s.pc 2#16, hcosts⟩

/-- Settles O51: where the launch admits it, each of the three is the jump, or the move to the next instruction, that
its row of the table costs. -/
theorem optionalJumpsAndNopWhenAdmitted : Obligations.OptionalJumpsAndNopWhenAdmitted := by
  intro s
  refine ⟨fun hadmit e => ?_, fun hadmit cc nn => exec_of_conditionalJump (if_pos hadmit) rfl rfl,
    fun hadmit => exec_of_complete (if_pos hadmit) rfl⟩
  obtain ⟨t, hnext, hpc, hcosts, hframe⟩ :=
    exec_of_complete (i := .jrE e) (row := CycleTable.jrE) (if_pos hadmit) rfl
  exact ⟨t, hnext, by rw [hpc, toNat_relTarget], hcosts, hframe⟩

/-- Settles O52: taken it is a push (`exec_of_push16`), not taken a move of PC (`exec_of_complete`). -/
theorem conditionalCallWhenAdmitted : Obligations.ConditionalCallWhenAdmitted := by
  intro s cc nn hadmit
  have hcond : s.cond cc = conditionHolds s.f cc := cond_eq s cc
  split
  · next htaken =>
    exact fun hallowed => exec_of_push16 hallowed ((if_pos hadmit).trans (if_pos (hcond.trans htaken))) rfl
  · next hfalls =>
    exact exec_of_complete ((if_pos hadmit).trans (if_neg (hcond ▸ hfalls))) rfl

end Sys2Proof.Machine
end

/-! The system rules (44_system): EI and DI, the 45 faulting rows as instructions, and the fault that the launch's
admission of the opcode byte decides. -/

section

namespace Sys2Proof.Machine

/-! ## Interrupt enable -/

theorem onlyPcClk_retire (s : State) (p : Addr) (n : Nat) : OnlyPcClk s (s.retire p n) :=
  ⟨rfl, rfl, fun r _ => s.retire_getReg p n r, ⟨rfl, rfl, rfl, rfl⟩, keepsMemory_of_eq rfl rfl rfl⟩

/-- An instruction that sets IME to `b` and completes. -/
theorem exec_of_setIme {s : State} {i : Instr} {b : Bool}
    (he : exec i s = complete (s.setIme b) (s.pc + 1#16) s.launch.cycleTable.eiDi) :
    ∃ t, exec i s = .next t ∧ t.ime = b ∧ t.pc = s.pc + 1#16 ∧ Costs s t CycleTable.eiDi 4 ∧
      OnlyPcClk (s.setIme b) t :=
  ⟨_, he, rfl, rfl, costs_retire _ rfl rfl, onlyPcClk_retire _ _ _⟩

/-- Settles O54: both write IME alone before they complete (`exec_of_setIme`). -/
theorem interruptEnableInstructions : Obligations.InterruptEnableInstructions := fun _ =>
  ⟨⟨rfl, exec_of_setIme rfl⟩, ⟨rfl, exec_of_setIme rfl⟩⟩

/-! ## Faulting opcodes -/

/-- Each of the 45 rows is what the decoder gives at a byte of R135, and that byte is its encoding. -/
theorem faultingInstrs_opcode : ∀ i ∈ faultingInstrs, ∃ op ∈ faultingBytes,
    encode i = [op] ∧ decodeOp op 0#8 0#8 = i := by
  decide

/-- Settles O13: a row is decoded from its own byte (`faultingInstrs_opcode`), which no launch admits. -/
theorem faultingRowsTakeTheirFault : Obligations.FaultingRowsTakeTheirFault := by
  intro i hi s
  obtain ⟨op, hop, hencode, hdecode⟩ := faultingInstrs_opcode i hi
  have hadm : ¬Admitted s.launch op := fun h => h.1 hop
  exact ⟨op, hencode, hop, hdecode ▸ exec_decodeOp_of_not_admitted hadm 0#8 0#8⟩

theorem head?_encode_fetchInstr_of_admitted {s : State} (h : Admitted s.launch (s.busRead s.pc)) :
    (encode s.fetchInstr).head? = some (s.busRead s.pc) := by
  rw [State.fetchInstr_of_admitted h, encode_decodeOp, List.head?_cons]

/-- A step at an opcode that the launch admits completes, or raises RomWrite: of the three ways an instruction ends,
UnimplementedOpcode would be of the opcode fetched, which is admitted. -/
theorem step_of_admitted {s : State} (hen : Enabled s) (h : Admitted s.launch (s.busRead s.pc)) :
    ∃ t, step s = .next t ∧ (t.fault = none ∨ ∃ a, RomFaults s a ∧ t.fault = some (.romWrite a s.pc)) := by
  obtain ⟨t, hstep, hend⟩ := step_end s hen
  refine ⟨t, hstep, ?_⟩
  cases hend with
  | unimplemented op hhead hnot =>
    rw [head?_encode_fetchInstr_of_admitted h] at hhead
    cases hhead
    exact absurd h hnot
  | romWrite a ha => exact .inr ⟨a, ha, rfl⟩
  | completed _ hc => exact .inl (hc.fault.trans hen)

/-- Settles O12: the fault of an opcode not admitted (`step_of_not_admitted`), and the ends of an admitted one
(`step_of_admitted`). -/
theorem admissionDecidesUnimplemented : Obligations.AdmissionDecidesUnimplemented := fun _ hen =>
  ⟨fun hnot => ⟨State.fetchBytes_of_not_admitted hnot, step_of_not_admitted hen hnot⟩, step_of_admitted hen⟩

end Sys2Proof.Machine
end

/-! The exceptions (60_exceptions): FAULT once it is set, what a failing step changes, the writers of memory,
and the writes into the ROM window that raise RomWrite. -/

section

namespace Sys2Proof.Machine

/-! ## A set FAULT -/

theorem step_of_fault {s : State} {r : FaultRecord} (h : s.fault = some r) : step s = .fault (.sessionFailed r) := by
  rw [step, h]

theorem State.stepEvent_of_fault {s : State} {r : FaultRecord} (h : s.fault = some r) : s.stepEvent = s := by
  rw [State.stepEvent, step_of_fault h]

theorem hostEnd_fault {s t : State} {act : HostAction} (h : HostEnd s act t) : t.fault = s.fault := by
  cases h <;> rfl

/-- Settles O7: no step answers a next state (`enabled_of_step`), no host operation writes FAULT (`hostEnd_fault`), and
so no schedule does. -/
theorem faultIsTerminal : Obligations.FaultIsTerminal := by
  intro s r hr
  refine ⟨step_of_fault hr, State.stepEvent_of_fault hr, fun act t h => (hostEnd_fault (hostEnd_of_done h)).trans hr,
    fun hostSteps events => ?_⟩
  refine runSession_induction (P := fun u => u.fault = some r) (fun u t hu h => ?_) (fun act u t _ hu h => ?_)
    events s hr
  · exact nomatch hu.symm.trans (enabled_of_step h)
  · exact (hostEnd_fault h).trans hu

/-! ## A failing step -/

/-- The instruction a step runs encodes back to the opcode byte at PC, admitted or not. -/
theorem head?_encode_fetchInstr (s : State) : (encode s.fetchInstr).head? = some (s.busRead s.pc) := by
  rw [State.fetchInstr, encode_decodeOp, List.head?_cons, s.fetchBytes_head]

/-- Settles O8: of the three ways a step ends, the two that fail set FAULT alone, and the opcode an unimplemented one
records is the one fetched (`head?_encode_fetchInstr`). -/
theorem faultingStepChangesOnlyFault : Obligations.FaultingStepChangesOnlyFault := by
  intro s t hen h ht
  cases step_next h with
  | unimplemented op hhead =>
    obtain rfl : s.busRead s.pc = op := Option.some.inj ((head?_encode_fetchInstr s).symm.trans hhead)
    exact ⟨_, rfl, .inl rfl⟩
  | romWrite a ha => exact ⟨_, rfl, .inr ⟨a, ha, rfl⟩⟩
  | completed _ hc => exact absurd (hc.fault.trans hen) ht

/-! ## The writers of memory -/

/-- Settles O23: a fault leaves memory, and a completed instruction outside the two lists does (`Completed.ram`). -/
theorem memoryWritersAreTheListed : Obligations.MemoryWritersAreTheListed := by
  intro s t h hstores hpushes
  cases step_next h with
  | unimplemented => exact keepsMemory_of_eq rfl rfl rfl
  | romWrite => exact keepsMemory_of_eq rfl rfl rfl
  | completed _ hc => exact keepsMemory_of_eq hc.launch hc.bank (hc.ram hstores hpushes)

/-! ## Writes into the ROM window -/

theorem State.busWrite_of_romFaults {s : State} {a : Addr} (v : Byte) (h : RomFaults s a) : s.busWrite a v = .error a :=
  (byteWriteStoresAsTheBusSays s a v).1 h

theorem State.busWriteWord_of_romFaults_low {s : State} {a : Addr} (v : Addr) (h : RomFaults s a) :
    s.busWriteWord a v = .error a := by
  rw [State.busWriteWord, State.busWrite_of_romFaults (loByte v) h]

/-- The low byte is written first, so the high byte's address is recorded only where the low byte raises nothing. -/
theorem State.busWriteWord_of_romFaults_high {s : State} {a : Addr} (v : Addr) (hlow : ¬RomFaults s a)
    (hhigh : RomFaults s (a + 1#16)) : s.busWriteWord a v = .error (a + 1#16) := by
  obtain ⟨t, ht⟩ := State.busWrite_ok_of_not_romFaults (loByte v) hlow
  have hlaunch : t.launch = s.launch := by rw [(State.busWrite_ok ht).1]
  rw [State.busWriteWord, ht]
  exact State.busWrite_of_romFaults (hiByte v) (by rwa [RomFaults, hlaunch])

theorem State.push16_of_romFaults_low {s : State} (v : Addr) (h : RomFaults s (s.sp - 2#16)) :
    s.push16 v = .error (s.sp - 2#16) :=
  State.busWriteWord_of_romFaults_low (s := s.setSp (s.sp - 2#16)) v h

theorem State.push16_of_romFaults_high {s : State} (v : Addr) (hlow : ¬RomFaults s (s.sp - 2#16))
    (hhigh : RomFaults s (s.sp - 1#16)) : s.push16 v = .error (s.sp - 1#16) := by
  have hnext : s.sp - 2#16 + 1#16 = s.sp - 1#16 := by bv_omega
  rw [← hnext] at hhigh ⊢
  exact State.busWriteWord_of_romFaults_high (s := s.setSp (s.sp - 2#16)) v hlow hhigh

/-! ## The instructions that can raise RomWrite -/

/-- Where its write fails, an instruction that writes memory raises RomWrite with the address the write answers. -/
theorem exec_of_write_error {i : Instr} {s : State} {written : Except Addr State} {p a : Addr} {n : Nat}
    (he : exec i s = completeWrite s written p n) (hw : written = .error a) :
    exec i s = .next { s with fault := some (.romWrite a s.pc) } := by
  rw [he, hw]
  rfl

/-- An instruction on the list of those that store at HL, where HL is in the ROM window. -/
theorem exec_of_storesAtHL {i : Instr} {s : State} (hi : storesAtHL i = true) (h : RomFaults s s.hl) :
    exec i s = .next { s with fault := some (.romWrite s.hl s.pc) } := by
  have hwrite (v : Byte) : s.writeHL v = .error s.hl := State.busWrite_of_romFaults v h
  have hmap (v : Byte) (r : StepResult) : (s.writeHL v).map (·.setZNH r) = .error s.hl := by rw [hwrite]; rfl
  cases i with
  | ldHLN | ldHLR => exact exec_of_write_error rfl (hwrite _)
  | incHL | decHL => exact exec_of_write_error rfl (hmap _ _)
  | _ => cases hi

/-- An instruction on the list of those that push ends with the push of some value. -/
theorem exec_of_pushes {i : Instr} {s : State} (hi : pushes s i = true) :
    ∃ v p n, exec i s = completeWrite s (s.push16 v) p n := by
  cases i with
  | push | call | rst => exact ⟨_, _, _, rfl⟩
  | callCc cc nn =>
    obtain ⟨hadmit, htaken⟩ := (Bool.and_eq_true _ _).mp hi
    exact ⟨_, _, _, (if_pos hadmit).trans (if_pos ((cond_eq s cc).trans htaken))⟩
  | _ => cases hi

theorem exec_next {i : Instr} {s t : State} (h : exec i s = .next t) : ExecEnd i s t := by
  obtain ⟨u, hu, hend⟩ := exec_end i s
  cases hu.symm.trans h
  exact hend

/-- Settles O55: a store at HL writes that address, a push its low byte and then its high one, and no other end of an
instruction raises RomWrite (`exec_next`). -/
theorem storesIntoTheRomWindowFault : Obligations.StoresIntoTheRomWindowFault := by
  intro s i
  refine ⟨exec_of_storesAtHL, fun hi hlow => ?_, fun hi hlow hhigh => ?_, fun t a p hen h ht => ?_⟩
  · obtain ⟨v, _, _, he⟩ := exec_of_pushes hi
    exact exec_of_write_error he (State.push16_of_romFaults_low v hlow)
  · obtain ⟨v, _, _, he⟩ := exec_of_pushes hi
    exact exec_of_write_error he (State.push16_of_romFaults_high v hlow hhigh)
  · cases exec_next h with
    | unimplemented => cases ht
    | romWrite _ ha hi =>
      cases ht
      exact ⟨hi, ha, rfl⟩
    | completed _ hc => exact nomatch (hc.fault.trans hen).symm.trans ht

end Sys2Proof.Machine
end

/-! Reset and hazards (70_reset_and_hazards): the cartridge window is read-only to the CPU, and the loop of
`runToAddress`, one lemma per check, one for its turn, and where it ends. -/

section

namespace Sys2Proof.Machine

/-! ## The cartridge window -/

/-- A cartridge read depends on the launch parameters and BANK alone (20_memory R72). -/
theorem State.cartRead_congr {s t : State} (hl : t.launch = s.launch) (hb : t.bank = s.bank) (a : Addr) :
    t.cartRead a = s.cartRead a := by
  rw [State.cartRead, State.cartRead, hl, hb]

/-- Settles O25: before and after the step the address is routed to the cartridge, whose bytes depend on what no step
writes (`step_bank_launch`). -/
theorem cartridgeWindowIsReadOnly : Obligations.CartridgeWindowIsReadOnly := by
  intro s t a hcart hlow h
  obtain ⟨hbank, hlaunch⟩ := step_bank_launch h
  have hs : s.route a = .cart := State.route_cart_iff.2 ⟨hlow, hcart⟩
  have ht : t.route a = .cart := (State.route_congr hlaunch a).trans hs
  calc t.busRead a = t.cartRead a := State.busRead_of_cart ht
    _ = s.cartRead a := State.cartRead_congr hlaunch hbank a
    _ = s.busRead a := (State.busRead_of_cart hs).symm

/-! ## The turn of a run -/

theorem applyHostSteps_eq_foldl (hostSteps : HostAction → Bool) (acts : List HostAction) (s : State) :
    applyHostSteps hostSteps acts s = acts.foldl (fun w act => w.hostEvent hostSteps act) s := by
  induction acts generalizing s with
  | nil => rfl
  | cons act rest ih => exact ih _

/-- A host action, done, refused or not admitted, leaves FAULT (60_exceptions R605). -/
theorem State.hostEvent_fault (hostSteps : HostAction → Bool) (s : State) (act : HostAction) :
    (s.hostEvent hostSteps act).fault = s.fault := by
  unfold State.hostEvent
  split
  · split
    · exact hostEnd_fault (hostEnd_of_done ‹_›)
    · rfl
  · rfl

theorem applyHostSteps_fault (hostSteps : HostAction → Bool) (acts : List HostAction) (s : State) :
    (applyHostSteps hostSteps acts s).fault = s.fault := by
  induction acts generalizing s with
  | nil => rfl
  | cons act rest ih => exact (ih _).trans (s.hostEvent_fault hostSteps act)

theorem State.stepEvent_of_step {s t : State} (h : step s = .next t) : s.stepEvent = t := by
  rw [State.stepEvent, h]

/-! ## The checks of a run -/

theorem budgetSpent_iff {budget : Option Nat} {clk : Nat} :
    budgetSpent budget clk = true ↔ ∃ b, budget = some b ∧ b ≤ clk := by
  cases budget <;> simp [budgetSpent]

theorem not_budgetSpent_iff {budget : Option Nat} {clk : Nat} :
    ¬budgetSpent budget clk = true ↔ ∀ b, budget = some b → clk < b := by
  simp only [budgetSpent_iff, not_exists, not_and, not_le]

section
variable {hostSteps : HostAction → Bool} {target : Addr} {budget : Option Nat} {s : State}

theorem runToAddress_of_fault {r : FaultRecord} (hr : s.fault = some r) (turns : List (List HostAction)) :
    runToAddress hostSteps target budget turns s = .faulted r s := by
  cases turns <;> simp only [runToAddress, hr]

variable (hen : Enabled s)
include hen

theorem runToAddress_of_target (hpc : s.pc = target) (turns : List (List HostAction)) :
    runToAddress hostSteps target budget turns s = .reached s := by
  cases turns <;> simp only [runToAddress, hen, if_pos hpc]

variable (hpc : s.pc ≠ target)
include hpc

theorem runToAddress_of_budgetSpent (hb : budgetSpent budget s.clk = true) (turns : List (List HostAction)) :
    runToAddress hostSteps target budget turns s = .budget s := by
  cases turns <;> simp only [runToAddress, hen, if_neg hpc, if_pos hb]

theorem runToAddress_nil (hb : ¬budgetSpent budget s.clk = true) :
    runToAddress hostSteps target budget [] s = .unfinished s := by
  simp only [runToAddress, hen, if_neg hpc, if_neg hb]

/-- A turn whose checks find no ending applies the host's actions, which leave the step enabled, and takes it. -/
theorem runToAddress_cons (hb : ¬budgetSpent budget s.clk = true) (acts : List HostAction)
    (rest : List (List HostAction)) :
    ∃ u, step (applyHostSteps hostSteps acts s) = .next u ∧
      runToAddress hostSteps target budget (acts :: rest) s = runToAddress hostSteps target budget rest u := by
  obtain ⟨u, hu, -⟩ := step_end _ ((applyHostSteps_fault hostSteps acts s).trans hen)
  refine ⟨u, hu, ?_⟩
  simp only [runToAddress, hen, if_neg hpc, if_neg hb, State.stepEvent_of_step hu]

end

/-! ## The endings of a run -/

/-- A run ends as the loop with no turn left ends at some state. -/
theorem exists_runToAddress_eq_nil (hostSteps : HostAction → Bool) (target : Addr) (budget : Option Nat)
    (turns : List (List HostAction)) (s : State) :
    ∃ u, runToAddress hostSteps target budget turns s = runToAddress hostSteps target budget [] u := by
  induction turns generalizing s with
  | nil => exact ⟨s, rfl⟩
  | cons acts rest ih =>
    cases hen : s.fault with
    | some r => exact ⟨s, (runToAddress_of_fault hen _).trans (runToAddress_of_fault hen _).symm⟩
    | none =>
      by_cases hpc : s.pc = target
      · exact ⟨s, (runToAddress_of_target hen hpc _).trans (runToAddress_of_target hen hpc _).symm⟩
      by_cases hb : budgetSpent budget s.clk = true
      · exact ⟨s, (runToAddress_of_budgetSpent hen hpc hb _).trans (runToAddress_of_budgetSpent hen hpc hb _).symm⟩
      obtain ⟨u, -, hturn⟩ := runToAddress_cons hen hpc hb acts rest
      rw [hturn]
      exact ih u

/-- Settles O59: the ending says so of the state at which the checks of the loop found it
(`exists_runToAddress_eq_nil`), and each check and the turn is a lemma above. -/
theorem runToAddressEndings : Obligations.RunToAddressEndings := by
  intro hostSteps target budget turns s
  refine ⟨?_, fun r hr => runToAddress_of_fault hr turns, fun hen hpc => runToAddress_of_target hen hpc turns,
    fun b hen hpc hbudget hle => runToAddress_of_budgetSpent hen hpc (budgetSpent_iff.2 ⟨b, hbudget, hle⟩) turns,
    fun hen hpc hleft => ⟨?_, ?_⟩⟩
  · obtain ⟨u, hend⟩ := exists_runToAddress_eq_nil hostSteps target budget turns s
    rw [hend]
    cases hen : u.fault with
    | some r =>
      rw [runToAddress_of_fault hen]
      exact hen
    | none =>
      by_cases hpc : u.pc = target
      · rw [runToAddress_of_target hen hpc]
        exact ⟨hen, hpc⟩
      by_cases hb : budgetSpent budget u.clk = true
      · rw [runToAddress_of_budgetSpent hen hpc hb]
        exact ⟨hen, hpc, budgetSpent_iff.1 hb⟩
      · rw [runToAddress_nil hen hpc hb]
        exact ⟨hen, hpc, not_budgetSpent_iff.1 hb⟩
  · rintro rfl
    exact runToAddress_nil hen hpc (not_budgetSpent_iff.2 hleft)
  · rintro acts rest rfl
    rw [← applyHostSteps_eq_foldl]
    exact runToAddress_cons hen hpc (not_budgetSpent_iff.2 hleft) acts rest

end Sys2Proof.Machine
end
